-- ==== Sys2Proof/Word.lean ====
section
/-! DEFINITION. The word types of the DB-9160 and the shape of a sparse table (a list of key and value pairs). -/

namespace Sys2Proof

/-- A byte; multi-byte values are little-endian (R6). -/
abbrev Byte := BitVec 8

/-- A 16-bit word: flag words, seeds, LFSRs (R65, R77). -/
abbrev Half := BitVec 16

/-- A 32-bit lane, immediate or register (R176, R179). -/
abbrev W32 := BitVec 32

/-- A 64-bit scalar register, address operand or node reference (R176, R178, R224). -/
abbrev Word := BitVec 64

/-- A vector register: 512 bytes, lane l in bits 32·l to 32·l + 31 (R176). -/
abbrev Lanes := BitVec 4096

/-- Sparse data by key. In canonical form the keys rise strictly and no entry equals what an unlisted key reads as. -/
abbrev Table (α : Type) := List (Nat × α)

/-- Byte memory: one list of (address, byte) cells. -/
abbrev Mem := Table Byte

end Sys2Proof
end

