-- ==== Sys2Proof/Syntax.lean ====
section
/-! DEFINITION. The commands of the block: one constructor of Instr per row of spec/opcode_table.json, and the operand types. -/

namespace Sys2Proof

/-- The fields of an instruction word below OP (R179). -/
structure Fields where
  /-- rounding, bits 55 to 53 -/
  rm : BitVec 3
  /-- governing predicate, bits 52 to 50 -/
  pred : BitVec 3
  /-- element type, bits 49 to 47 -/
  ty : BitVec 3
  /-- destination register, bits 46 to 42 -/
  rd : BitVec 5
  /-- first source register, bits 41 to 37 -/
  rs1 : BitVec 5
  /-- second source register, bits 36 to 32 -/
  rs2 : BitVec 5
  /-- immediate, bits 31 to 0 -/
  imm : W32
  deriving DecidableEq, Repr

/-- A plain BAR0 write with no row of its own, posted by the host before the command that carries it: BAR0 offset and bytes. -/
structure Posted where
  off : Nat
  data : List Byte
  deriving DecidableEq, Repr

/-- The door an object request came through (R355, R357): the mailbox, or the segment with its source MAC. -/
inductive Door where
  | mailbox
  | segment (mac : BitVec 48)
  deriving DecidableEq, Repr

/-- Where an object request came from: its door and its transaction number (R359). -/
structure Source where
  door : Door
  txn : Half
  deriving DecidableEq, Repr

/-- What a message to a tally node asks for (R226, R227). -/
inductive TallyOp where
  | signal (n : BitVec 24)
  | decr (n : BitVec 24)
  | arrive
  | release
  deriving DecidableEq, Repr

/-- To whom a fault of a tally operation is charged (R230): an instruction, with its address, a matrix command or DMA descriptor, a
successor entry, a channel, a tree node, another package; an instruction's operation that a signal log held (R242). -/
inductive Charge where
  | instruction (ctx task core : Nat) (pc : Word)
  | issued (ctx task core : Nat)
  | successor (ctx task : Nat)
  | channel (ctx ch : Nat)
  | node
  | package
  | logged
  deriving DecidableEq, Repr

/-- A tally operation on its way to a node: the node reference (R224), the operation, who is charged, the context, and the
node reference it came from (0 for none; R236). -/
structure TallyMsg where
  node : Word
  op : TallyOp
  charge : Charge
  ctx : Nat
  path : Word
  deriving DecidableEq, Repr

/-- What the start-up steps of R394 meet: firmware images, PLLs, HBM training, self-test results, fibre powers (tenths of a
dBm), tier frames found, and the node straps. Physical units are numbered in increasing die, cluster, core, engine. -/
structure StartEnv where
  fw0 : Bool
  fw1 : Bool
  pll : Bool
  hbm : Bool
  straps : BitVec 5
  /-- (physical engine, physical column) pairs that failed self-test -/
  columns : List (Nat × Nat)
  /-- physical cores, 90·die + 9·cluster + core -/
  cores : List Nat
  /-- physical clusters, 10·die + cluster -/
  clusters : List Nat
  /-- physical optical engines, 0 to 19 -/
  optics : List Nat
  /-- power of fibre 0 to 11, in tenths of a dBm -/
  fibres : List Int
  tierFrames : Nat
  /-- milliseconds from power-up to READY or FAILED -/
  ms : BitVec 32
  deriving DecidableEq, Repr, Inhabited

/-- What the debug port asks for (R166, R337, R160, R393). -/
inductive DebugAccess where
  | readOnChip (core : Nat) (addr len : Nat)
  | fabricBeat (die : Nat)
  | firmware (slot : Nat) (good : Bool)
  deriving DecidableEq, Repr

/-- The commands, in the order of the table. Operands: `c` a core, 64·die + 8·cluster + core; `f` the fields of the instruction
word; `e` an index in the core's matrix queue; `g` an engine; `cl` a cluster; `x` a context; `src` the source of an object write
and `data` its bytes; `l` a link, 0 to 14 for optical engines 0 to 14 and 15 to 18 for global ports 0 to 3; `pre` BAR0 writes
posted before the command. -/
inductive Instr where
  | nop (c : Nat) (w : Word)
  | addi (c : Nat) (f : Fields)
  | add (c : Nat) (f : Fields)
  | sub (c : Nat) (f : Fields)
  | mul (c : Nat) (f : Fields)
  | and (c : Nat) (f : Fields)
  | or (c : Nat) (f : Fields)
  | xor (c : Nat) (f : Fields)
  | shl (c : Nat) (f : Fields)
  | shr (c : Nat) (f : Fields)
  | sra (c : Nat) (f : Fields)
  | slt (c : Nat) (f : Fields)
  | sltu (c : Nat) (f : Fields)
  | lih (c : Nat) (f : Fields)
  | ld (c : Nat) (f : Fields)
  | st (c : Nat) (f : Fields)
  | ldw (c : Nat) (f : Fields)
  | stw (c : Nat) (f : Fields)
  | beq (c : Nat) (f : Fields)
  | bne (c : Nat) (f : Fields)
  | blt (c : Nat) (f : Fields)
  | bge (c : Nat) (f : Fields)
  | jal (c : Nat) (f : Fields)
  | jr (c : Nat) (f : Fields)
  | missue (c : Nat) (f : Fields)
  | dissue (c : Nat) (f : Fields)
  | signal (c : Nat) (f : Fields)
  | wait (c : Nat) (f : Fields)
  | dec (c : Nat) (f : Fields)
  | arrive (c : Nat) (f : Fields)
  | tsetc (c : Nat) (f : Fields)
  | tsetb (c : Nat) (f : Fields)
  | tdrop (c : Nat) (f : Fields)
  | rset (c : Nat) (f : Fields)
  | rget (c : Nat) (f : Fields)
  | rflush (c : Nat) (f : Fields)
  | commit (c : Nat) (f : Fields)
  | release (c : Nat) (f : Fields)
  | talloc (c : Nat) (f : Fields)
  | tload (c : Nat) (f : Fields)
  | tloadRetire (c : Nat)
  | tfree (c : Nat) (f : Fields)
  | cwb (c : Nat) (f : Fields)
  | cinv (c : Nat) (f : Fields)
  | cwbinv (c : Nat) (f : Fields)
  | flags (c : Nat) (f : Fields)
  | cycle (c : Nat) (f : Fields)
  | otime (c : Nat) (f : Fields)
  | endInst (c : Nat) (f : Fields)
  | vld (c : Nat) (f : Fields)
  | vst (c : Nat) (f : Fields)
  | vlds (c : Nat) (f : Fields)
  | vldt (c : Nat) (f : Fields)
  | vbcast (c : Nat) (f : Fields)
  | vmovx (c : Nat) (f : Fields)
  | vadd (c : Nat) (f : Fields)
  | vsub (c : Nat) (f : Fields)
  | vmul (c : Nat) (f : Fields)
  | vfma (c : Nat) (f : Fields)
  | vdiv (c : Nat) (f : Fields)
  | vsqrt (c : Nat) (f : Fields)
  | vmax (c : Nat) (f : Fields)
  | vmin (c : Nat) (f : Fields)
  | vcmp (c : Nat) (f : Fields)
  | vsel (c : Nat) (f : Fields)
  | vcvt (c : Nat) (f : Fields)
  | vlogic (c : Nat) (f : Fields)
  | vexp (c : Nat) (f : Fields)
  | vlog (c : Nat) (f : Fields)
  | vrsqrt (c : Nat) (f : Fields)
  | vtanh (c : Nat) (f : Fields)
  | vsigm (c : Nat) (f : Fields)
  | vrsum (c : Nat) (f : Fields)
  | vrmax (c : Nat) (f : Fields)
  | vrmin (c : Nat) (f : Fields)
  | vdec (c : Nat) (f : Fields)
  | venc (c : Nat) (f : Fields)
  | vseg (c : Nat) (f : Fields)
  | vadamw (c : Nat) (f : Fields)
  | matmul (c e : Nat)
  | exactFill (c e : Nat)
  | matrixCommandStart (c e : Nat)
  | tileLoadDone (c g : Nat)
  | bufferSwap (c g : Nat)
  | matrixRow (c g : Nat)
  | matrixCommandComplete (c e : Nat)
  /-- group `k` of the cluster's batcher -/
  | batchTimeout (cl k : Nat)
  | batchCopyOut (c e : Nat)
  | dmaPiece (cl slot : Nat)
  | dmaComplete (cl slot : Nat)
  | waitClockGate (c : Nat)
  | tallyRemoteArrival (m : TallyMsg)
  | tallyRemoteRelease (m : TallyMsg)
  | signalRemote (m : TallyMsg)
  | submit (x : Nat)
  | graphAccept (x : Nat)
  | instanceStart (c : Nat)
  | taskComplete (x t : Nat)
  | taskTimeout (x t : Nat)
  | graphComplete (x : Nat)
  | channelItemMove (x ch : Nat)
  | channelDeliver (x ch : Nat)
  /-- memory kind 0 to 2 of core `u` or 3 of cluster `u`, bank and word within the bank -/
  | patrolScrub (kind u bank word : Nat)
  /-- clusters whose read-back failed, and how many granules were corrected -/
  | scrubComplete (x : Nat) (failed : List Nat) (corrected : Nat)
  /-- site 0 to 3, die (4 the hub), instance field, requester sub-index, context -/
  | holdLimitCutoff (site die inst req x : Nat)
  | flagged (src : Source) (sub : Nat) (data : List Byte)
  | commitArbitration (src : Source) (data : List Byte)
  | clusterCache (src : Source) (sub : Nat) (data : List Byte)
  | batcherEn (src : Source) (sub : Nat) (data : List Byte)
  | create (src : Source) (x : Nat)
  | endContext (src : Source) (x : Nat)
  | kill (src : Source) (x : Nat)
  | preempt (src : Source) (x : Nat)
  | preemptForced (src : Source) (x : Nat)
  | harvestComplete (x : Nat)
  | restore (src : Source) (x : Nat)
  | restoreComplete (x : Nat)
  | adopt (src : Source) (x : Nat)
  | reclaimPageMoved (x : Nat)
  | map (src : Source) (data : List Byte)
  | unmap (src : Source) (data : List Byte)
  | protect (src : Source) (data : List Byte)
  | load (src : Source) (data : List Byte) (image : List Byte)
  | cancelLoad (src : Source) (data : List Byte)
  /-- the bytes that arrived for the next piece, and how the read of it ended (reason code of R280, 0 for good) -/
  | loadPiece (x : Nat) (data : List Byte) (err : Nat)
  | peerRead (x va len : Nat)
  | ringEnable (src : Source) (data : List Byte)
  | ringFormCheck
  /-- direction 0 east, 1 west -/
  | sendEntryGo (x dir : Nat)
  | trainSend (x dir : Nat)
  /-- the 256 bytes that arrived, damaged or not -/
  | flitReceive (l : Nat) (flit : List Byte)
  | flitForward (l : Nat)
  /-- port 0 east ingress (west-bound trains), 1 west ingress; the stream of the train -/
  | unitLand (port stream : Nat)
  | gradientAccumulate (port stream : Nat)
  | linkControlSend (l : Nat)
  | linkControlReceive (l : Nat) (flit : List Byte)
  | linkControlTimeout (l : Nat)
  /-- the lanes still lit -/
  | lightLoss (l : Nat) (lit : BitVec 18)
  | lockLoss (l : Nat)
  | trainingTimeout (l : Nat)
  | detect (l : Nat) (lit : BitVec 18)
  | lock (l : Nat)
  /-- measured error rate of each lane -/
  | align (l : Nat) (errs : List Nat)
  | fecUp (l : Nat)
  | ident (l : Nat) (block : List Byte)
  | quietEnd (l : Nat)
  | absentLight (l : Nat)
  /-- physical engine, lane, symbol errors counted in the window -/
  | laneWearWindow (e lane errs : Nat)
  | fibrePowerLoss (fibre : Nat)
  | retrain (src : Source) (e : Nat)
  | disable (src : Source) (e : Nat)
  | enable (src : Source) (e : Nat)
  | routeReq (src : Source) (data : List Byte)
  /-- the train (header and payload); `l` the link it came on, or 19 when it originates here -/
  | routedTrain (l : Nat) (train : List Byte)
  | timeTrainSend (l : Nat)
  /-- header, local arrival time, and whether the train came from a replay -/
  | timeTrainReceive (l : Nat) (header : List Byte) (t4 : Word) (replayed : Bool)
  | timeSet (src : Source) (data : List Byte)
  | timeRole (src : Source) (data : List Byte)
  | freezeMessage (l : Nat) (train : List Byte)
  | freezeComplete (x : Nat)
  | wfAck (src : Source) (data : List Byte)
  | graftReq (src : Source) (data : List Byte)
  | recovery (src : Source) (data : List Byte)
  /-- 13 temperatures in 1/16 °C (dies 0 to 3, hub, stacks 0 to 7), and whether each supply of die 0 to 3 and the hub is in range -/
  | monitorSample (temps : List Int) (supplies : List Bool)
  | throttleStep (die : Nat)
  | throttleRecover (die : Nat)
  | pRequest (src : Source) (sub : Nat) (data : List Byte)
  | pStateChangeDone (die : Nat)
  | powerStateEntry (level : Nat)
  | wakeComplete
  | sqTail (x : Nat) (v : W32) (pre : List Posted)
  | write (x : Nat)
  | sqFlush (x : Nat) (v : W32) (pre : List Posted)
  | cancel (x : Nat) (v : W32)
  | resume (x : Nat) (v : Word)
  | abort (x : Nat) (v : Word)
  /-- ring 0 completion, 1 fault -/
  | recordPost (x ring : Nat)
  | cqHead (x ring : Nat) (v : W32)
  | bar2Read (off len : Nat) (pre : List Posted)
  | bar2Write (off : Nat) (data : List Byte) (pre : List Posted)
  | perstN
  | functionLevelReset
  | mbDoorbell (len : W32) (pre : List Posted)
  /-- a frame in the order of its transmission: the octets of its destination and source, and its EtherType with the payload -/
  | frameReceive (dst mac : List Byte) (rest : List Byte)
  | read (src : Source) (index sub len off : Nat)
  | objectWrite (src : Source) (index sub : Nat) (data : List Byte)
  | writeSegment (src : Source) (index sub off : Nat) (data : List Byte)
  | segmentTimeout (mac : BitVec 48)
  | discover (src : Source)
  | event
  | nvStoreDefaults (src : Source)
  | nvErase (src : Source)
  | nvStoreDone (good : Bool)
  | stepTrig
  | powerUp (env : StartEnv)
  | vin48Dip
  | vin48Loss
  | vaux12Loss
  | vin48Restored (env : StartEnv)
  /-- compute die 0 to 3, or 4 for the hub -/
  | dieShutdown (die : Nat)
  | meterStart (torn : Bool)
  /-- one voltage and current sample: its energy in microjoules, mV, mA, and whether the two crystals differ by more than 200 ppm -/
  | meterSample (uj mv ma : Nat) (timeBase : Bool)
  | mtrPulseEnd
  | statusRecord
  | meterReadRequest (index sub off : Nat)
  | statusRecordTimeout
  | meterPowerDown
  | vaux12Restored (env : StartEnv)
  | pllLockLoss (die : Nat)
  | powerStateEntryComplete
  /-- requests per (pseudo-channel, context) of the window -/
  | hotChannelWindow (counts : List (Nat × Nat × Nat))
  | debugPortAccess (a : DebugAccess)
  | perstNDeassert
  | busMasterEnable
  /-- MSI-X vector, or 130 for the function mask -/
  | msixMaskClear (vec : Nat) (pre : List Posted)
  /-- ring 0 completion, 1 fault -/
  | cqBase (x ring : Nat) (base : Word) (size : W32) (pre : List Posted)
  deriving DecidableEq, Repr

end Sys2Proof
end

