-- ==== Sys2Proof/Decode.lean ====
section
/-! DEFINITION. The instruction word of the cores (R179, R194, R195, R225): its fields, the command that a word stands for, and the
word of a command. The opcode table gives no bits for its rows, so no table word spells a command. -/

namespace Sys2Proof

/-- The fields of an instruction word below OP (R179). -/
def wordFields (w : Word) : Fields :=
  { rm := w.extractLsb' 53 3, pred := w.extractLsb' 50 3, ty := w.extractLsb' 47 3, rd := w.extractLsb' 42 5,
    rs1 := w.extractLsb' 37 5, rs2 := w.extractLsb' 32 5, imm := w.extractLsb' 0 32 }

/-- OP, bits 63 to 56 (R179). -/
def wordOp (w : Word) : BitVec 8 := w.extractLsb' 56 8

/-- The word of an operation code and its fields. -/
def wordOf (op : BitVec 8) (f : Fields) : Word := op ++ f.rm ++ f.pred ++ f.ty ++ f.rd ++ f.rs1 ++ f.rs2 ++ f.imm

/-- IMM[31:24], which selects among the tally operations (R225). -/
def immSelect (f : Fields) : BitVec 8 := f.imm.extractLsb' 24 8

/-- OP 0x24 by IMM[31:24] (R225). -/
def tallyControl (c : Nat) (f : Fields) : Option Instr :=
  match (immSelect f).toNat with
  | 0 => some (.dec c f)
  | 1 => some (.tsetc c f)
  | 2 => some (.tsetb c f)
  | 3 => some (.tdrop c f)
  | _ => none

/-- The command of an operation code on core `c`, NOP apart; none where R194, R195 and R225 list no operation. -/
def opInstr (c : Nat) (op : BitVec 8) (f : Fields) : Option Instr :=
  match op.toNat with
  | 0x01 => some (.addi c f)
  | 0x02 => some (.add c f)
  | 0x03 => some (.sub c f)
  | 0x04 => some (.mul c f)
  | 0x05 => some (.and c f)
  | 0x06 => some (.or c f)
  | 0x07 => some (.xor c f)
  | 0x08 => some (.shl c f)
  | 0x09 => some (.shr c f)
  | 0x0A => some (.sra c f)
  | 0x0B => some (.slt c f)
  | 0x0C => some (.sltu c f)
  | 0x0D => some (.lih c f)
  | 0x10 => some (.ld c f)
  | 0x11 => some (.st c f)
  | 0x12 => some (.ldw c f)
  | 0x13 => some (.stw c f)
  | 0x18 => some (.beq c f)
  | 0x19 => some (.bne c f)
  | 0x1A => some (.blt c f)
  | 0x1B => some (.bge c f)
  | 0x1C => some (.jal c f)
  | 0x1D => some (.jr c f)
  | 0x20 => some (.missue c f)
  | 0x21 => some (.dissue c f)
  | 0x22 => if immSelect f = 0 then some (.signal c f) else none
  | 0x23 => if immSelect f = 0 then some (.wait c f) else none
  | 0x24 => tallyControl c f
  | 0x25 => if immSelect f = 0 then some (.arrive c f) else none
  | 0x28 => some (.rset c f)
  | 0x29 => some (.rget c f)
  | 0x2A => some (.rflush c f)
  | 0x2B => some (.commit c f)
  | 0x2C => some (.release c f)
  | 0x30 => some (.talloc c f)
  | 0x31 => some (.tload c f)
  | 0x32 => some (.tfree c f)
  | 0x34 => some (.cwb c f)
  | 0x35 => some (.cinv c f)
  | 0x36 => some (.cwbinv c f)
  | 0x38 => some (.flags c f)
  | 0x39 => some (.cycle c f)
  | 0x3A => some (.otime c f)
  | 0x3F => some (.endInst c f)
  | 0x40 => some (.vld c f)
  | 0x41 => some (.vst c f)
  | 0x42 => some (.vlds c f)
  | 0x43 => some (.vldt c f)
  | 0x44 => some (.vbcast c f)
  | 0x45 => some (.vmovx c f)
  | 0x48 => some (.vadd c f)
  | 0x49 => some (.vsub c f)
  | 0x4A => some (.vmul c f)
  | 0x4B => some (.vfma c f)
  | 0x4C => some (.vdiv c f)
  | 0x4D => some (.vsqrt c f)
  | 0x4E => some (.vmax c f)
  | 0x4F => some (.vmin c f)
  | 0x50 => some (.vcmp c f)
  | 0x51 => some (.vsel c f)
  | 0x52 => some (.vcvt c f)
  | 0x53 => some (.vlogic c f)
  | 0x58 => some (.vexp c f)
  | 0x59 => some (.vlog c f)
  | 0x5A => some (.vrsqrt c f)
  | 0x5B => some (.vtanh c f)
  | 0x5C => some (.vsigm c f)
  | 0x60 => some (.vrsum c f)
  | 0x61 => some (.vrmax c f)
  | 0x62 => some (.vrmin c f)
  | 0x68 => some (.vdec c f)
  | 0x69 => some (.venc c f)
  | 0x6A => some (.vseg c f)
  | 0x70 => some (.vadamw c f)
  | _ => none

/-- The command that an instruction word stands for on core `c`; a word with no operation is a NOP row with that word, which meets
R180. -/
def coreInstr (c : Nat) (w : Word) : Instr := (opInstr c (wordOp w) (wordFields w)).getD (.nop c w)

/-- The core, operation code and fields of a command that is an instruction word. -/
def instrOp : Instr → Option (Nat × BitVec 8 × Fields)
  | .addi c f => some (c, 0x01, f)
  | .add c f => some (c, 0x02, f)
  | .sub c f => some (c, 0x03, f)
  | .mul c f => some (c, 0x04, f)
  | .and c f => some (c, 0x05, f)
  | .or c f => some (c, 0x06, f)
  | .xor c f => some (c, 0x07, f)
  | .shl c f => some (c, 0x08, f)
  | .shr c f => some (c, 0x09, f)
  | .sra c f => some (c, 0x0A, f)
  | .slt c f => some (c, 0x0B, f)
  | .sltu c f => some (c, 0x0C, f)
  | .lih c f => some (c, 0x0D, f)
  | .ld c f => some (c, 0x10, f)
  | .st c f => some (c, 0x11, f)
  | .ldw c f => some (c, 0x12, f)
  | .stw c f => some (c, 0x13, f)
  | .beq c f => some (c, 0x18, f)
  | .bne c f => some (c, 0x19, f)
  | .blt c f => some (c, 0x1A, f)
  | .bge c f => some (c, 0x1B, f)
  | .jal c f => some (c, 0x1C, f)
  | .jr c f => some (c, 0x1D, f)
  | .missue c f => some (c, 0x20, f)
  | .dissue c f => some (c, 0x21, f)
  | .signal c f => some (c, 0x22, f)
  | .wait c f => some (c, 0x23, f)
  | .dec c f => some (c, 0x24, f)
  | .arrive c f => some (c, 0x25, f)
  | .rset c f => some (c, 0x28, f)
  | .rget c f => some (c, 0x29, f)
  | .rflush c f => some (c, 0x2A, f)
  | .commit c f => some (c, 0x2B, f)
  | .release c f => some (c, 0x2C, f)
  | .talloc c f => some (c, 0x30, f)
  | .tload c f => some (c, 0x31, f)
  | .tfree c f => some (c, 0x32, f)
  | .cwb c f => some (c, 0x34, f)
  | .cinv c f => some (c, 0x35, f)
  | .cwbinv c f => some (c, 0x36, f)
  | .flags c f => some (c, 0x38, f)
  | .cycle c f => some (c, 0x39, f)
  | .otime c f => some (c, 0x3A, f)
  | .endInst c f => some (c, 0x3F, f)
  | .vld c f => some (c, 0x40, f)
  | .vst c f => some (c, 0x41, f)
  | .vlds c f => some (c, 0x42, f)
  | .vldt c f => some (c, 0x43, f)
  | .vbcast c f => some (c, 0x44, f)
  | .vmovx c f => some (c, 0x45, f)
  | .vadd c f => some (c, 0x48, f)
  | .vsub c f => some (c, 0x49, f)
  | .vmul c f => some (c, 0x4A, f)
  | .vfma c f => some (c, 0x4B, f)
  | .vdiv c f => some (c, 0x4C, f)
  | .vsqrt c f => some (c, 0x4D, f)
  | .vmax c f => some (c, 0x4E, f)
  | .vmin c f => some (c, 0x4F, f)
  | .vcmp c f => some (c, 0x50, f)
  | .vsel c f => some (c, 0x51, f)
  | .vcvt c f => some (c, 0x52, f)
  | .vlogic c f => some (c, 0x53, f)
  | .vexp c f => some (c, 0x58, f)
  | .vlog c f => some (c, 0x59, f)
  | .vrsqrt c f => some (c, 0x5A, f)
  | .vtanh c f => some (c, 0x5B, f)
  | .vsigm c f => some (c, 0x5C, f)
  | .vrsum c f => some (c, 0x60, f)
  | .vrmax c f => some (c, 0x61, f)
  | .vrmin c f => some (c, 0x62, f)
  | .vdec c f => some (c, 0x68, f)
  | .venc c f => some (c, 0x69, f)
  | .vseg c f => some (c, 0x6A, f)
  | .vadamw c f => some (c, 0x70, f)
  | .tsetc c f => some (c, 0x24, f)
  | .tsetb c f => some (c, 0x24, f)
  | .tdrop c f => some (c, 0x24, f)
  | _ => none

/-- The instruction word of a command. -/
def encodeWord (i : Instr) : Option (Nat × Word) :=
  match i with
  | .nop c w => some (c, w)
  | i => (instrOp i).map fun e => (e.1, wordOf e.2.1 e.2.2)

/-- The table gives its rows no bits: no word of the table spells a command. -/
def decodeTableWord (_nbits _w : Nat) : Option Instr := none

end Sys2Proof
end

