-- ==== Sys2Proof/Machine/State.lean ====
section
/-! DEFINITION. The state of the block: every register, memory, queue and mode the spec gives the DB-9160, as plain data, and
the state at reset. `State` = the command queue, the meter die (which shares nothing with the rest, R397), and `Dev`, the rest. -/

namespace Sys2Proof.Machine

/-- An exact decoded value m·2^e, or NaR (R25, R34). -/
inductive Val where
  | nar
  | num (m e : Int)
  deriving DecidableEq, Repr

/-- The counters of a statistics record (R80); BIN is sparse by bin. -/
structure Stats where
  bins : Table Nat
  clipLo : Nat
  clipHi : Nat
  scExtra : Nat
  accSat : Nat
  ufZero : Nat
  blocks : Nat
  sidecars : Nat
  deriving DecidableEq, Repr

/-- Who runs on a core: context, task index, index and count of the run among those of its task, FTZ and SR_SEED (R201, R209). -/
structure Inst where
  ctx : Nat
  task : Nat
  idx : Nat
  cnt : Nat
  ftz : Bool
  seed : Half
  deriving DecidableEq, Repr

/-- What a core is doing (R208, R233, R197, R121). -/
inductive CoreStatus where
  | idle
  | running
  | waiting
  | paused
  | loading
  deriving DecidableEq, Repr

/-- A matrix command descriptor as read at issue (R85). -/
structure MatDesc where
  opcode : Nat
  accIn : Bool
  aCirc : Bool
  outCirc : Bool
  batch : Bool
  aFmt : Nat
  bFmt : Nat
  aRate : Nat
  bRate : Nat
  m : Nat
  k : Nat
  n : Nat
  mask : Nat
  done : Nat
  aAddr : Nat
  bAddr : Nat
  outAddr : Nat
  accAddr : Nat
  ccbAddr : Nat
  foldAddr : Nat
  aScale : W32
  bScale : W32
  deriving DecidableEq, Repr

/-- A converter control block as read at issue (R67, R426). -/
structure Ccb where
  alpha : W32
  lo : W32
  hi : W32
  outFmt : Nat
  sr : Bool
  biasEn : Bool
  i4full : Bool
  t : Nat
  biasAddr : Word
  deriving DecidableEq, Repr

/-- The rows that one issued command contributes to a queue entry: the whole command, or one held command of a batcher group
(R100). `staged` holds its A bytes with their poison marks once the batcher has copied them, `results` its outputs that wait to be
copied out. It carries the converter control block read at its own issue (R426). -/
structure Part where
  rows : Nat
  aAddr : Nat
  outAddr : Nat
  outCirc : Bool
  staged : Option (List Byte × List Bool)
  results : List (Nat × List Byte)
  /-- bytes of the staging area that it holds (R99) -/
  reserve : Nat
  /-- address of the descriptor, for FAULT_DETAIL (R216) -/
  descAddr : Word
  accIn : Bool
  accAddr : Nat
  core : Nat
  ctx : Nat
  task : Nat
  ftz : Bool
  seed : Half
  done : Nat
  ccb : Ccb
  /-- stopped by a bias read (R433) or a pointer fault (R149): no more output, no DONE_TALLY -/
  failed : Bool
  /-- cycles that each engine spent on its rows: busy, row-stall, column-stall (R104) -/
  cycles : Table (Nat × Nat × Nat)
  /-- its group was issued for room in the staging area (R99) -/
  forRoom : Bool
  deriving DecidableEq, Repr

/-- An entry of a core's matrix queue (R90). `fold` holds the accumulators of a group of several commands between K-tiles, by
64·row + column within its N-tile and engine (R100; log entry 139, DESIGN CHOICE). -/
structure MatCmd where
  id : Nat
  desc : MatDesc
  parts : List Part
  started : Bool
  ctx : Nat
  fold : Table (BitVec 24)
  deriving DecidableEq, Repr

/-- A weight tile buffer: the command, the tile pass it is for, and its decoded elements by 64·k + column (R81, R84). -/
structure Tile where
  cmd : Nat
  pass : Nat
  loaded : Bool
  elems : Table Val
  deriving DecidableEq, Repr

/-- A code table (R118): KIND and code lengths by symbol. -/
structure CodeTable where
  kind : Nat
  len : List Nat
  deriving DecidableEq, Repr

/-- The segment of A that an engine's decoder has in progress (R122, R128): command, tile pass and part, the segment's number, its bytes in
the input queue with the marks they carried and the tables at that moment (none once a harvest has discarded them), and the blocks met so
far. -/
structure HeldSeg where
  cmd : Nat
  pass : Nat
  part : Nat
  seg : Nat
  read : Option (List Byte × List Bool × Table (Option CodeTable))
  met : List Nat
  deriving DecidableEq, Repr

/-- One matrix engine (R81, R106). -/
structure Engine where
  active : Option Tile
  shadow : Option Tile
  /-- the command it runs, its current tile pass and the next row of that pass -/
  cmd : Option Nat
  pass : Nat
  row : Nat
  /-- bias values read for the current N-tile: command, N-tile, part, values (R426) -/
  bias : List (Nat × Nat × Nat × List W32)
  /-- its A decoder's segment in progress -/
  seg : Option HeldSeg
  /-- which of its two tile buffers is active (R81) -/
  flip : Bool
  deriving DecidableEq, Repr

/-- A line of a core data cache (R154): its bytes, and whether it is shared (1), exclusive (2) or modified (3). -/
structure DLine where
  data : List Byte
  state : Nat
  deriving DecidableEq, Repr

/-- An issued vector instruction that waits in the vector queue, with the scalar registers and the PC of its issue (R176, R181). -/
structure VIns where
  instr : Instr
  x : Table Word
  pc : Word
  deriving DecidableEq, Repr

/-- One core: scalar unit, vector unit, matrix queue and engines (R176, R90). -/
structure Core where
  x : Table Word
  pc : Word
  v : Table Lanes
  p : Table (BitVec 128)
  lfsr : BitVec 2048
  /-- the core data cache, up to 512 lines of 64 bytes -/
  dcache : Table (Option DLine)
  /-- the vector instruction queue, up to 16, oldest first -/
  vq : List VIns
  /-- the barrier latch (R227): tally reference and GEN -/
  latch : Option (Nat × BitVec 8)
  status : CoreStatus
  /-- stopped at an instruction boundary by a fault, cancellation, pre-emption or freeze -/
  held : Bool
  gated : Bool
  inst : Option Inst
  /-- flag word of this run (R65) -/
  flags : Half
  halfCycles : Nat
  /-- FAULT_ID of the unanswered page fault of a paused core -/
  fault : Option Nat
  /-- the TLOAD in progress: slot, table, destination register -/
  tload : Option (Nat × CodeTable × BitVec 5)
  /-- runs of 32 elements that a stopped VADAMW has done (R198) -/
  adam : Nat
  queue : List MatCmd
  nextCmd : Nat
  engines : Table Engine
  deriving DecidableEq, Repr

/-- A region record (R147). -/
structure Region where
  base : Nat
  item : Nat
  valid : Bool
  opened : Bool
  taken : Bool
  discP : Bool
  discC : Bool
  trunc : Bool
  cap : Nat
  head : Nat
  tail : Nat
  count : Nat
  /-- index of the item that was taken when a flush discarded it: no field of the record (R148, R150) -/
  old : Nat
  deriving DecidableEq, Repr

/-- A DMA descriptor in its slot with its cursor (R255, R257). -/
structure Dma where
  /-- place in the order of issue at its cluster (R257) -/
  seq : Nat
  core : Nat
  ctx : Nat
  task : Nat
  op : Nat
  rate : Nat
  tb2 : Bool
  done : Nat
  signalN : Nat
  rows : Nat
  src : Word
  dst : Word
  len : Nat
  srcPitch : Nat
  dstPitch : Nat
  row : Nat
  off : Nat
  /-- FAULT_ID of its unanswered page fault -/
  fault : Option Nat
  held : Bool
  deriving DecidableEq, Repr

/-- A group of the batcher (R98): the lead's core and descriptor, the held commands in order of acceptance, and whether it is issued
and waits for an entry of the lead's queue (R100). -/
structure Group where
  lead : Nat
  desc : MatDesc
  parts : List Part
  due : Bool
  deriving DecidableEq, Repr

/-- A line of the cluster cache: its data, whether they differ from memory, and its directory: the state of the line in each core's data
cache, 0 invalid, 1 shared, 2 exclusive, 3 modified (R154). -/
structure CacheLine where
  ctx : Nat
  data : List Byte
  dirty : Bool
  dir : Table Nat
  deriving DecidableEq, Repr

/-- One cluster. Regions: index for the cluster's own, 64 + 48·core + 16·memory + index for a core's. -/
structure Cluster where
  regions : Table Region
  dma : Table (Option Dma)
  groups : List Group
  cache : Table (Option CacheLine)
  /-- ready queue in arrival order: (ctx, task) -/
  ready : List (Nat × Nat)
  /-- pending bitmap: task indices waiting for room in the ready queue -/
  waiting : List (Nat × Nat)
  persist : Option (Nat × Nat)
  zeroing : Bool
  unassigned : Bool
  /-- by core of the cluster, the place in the order of issue that its DMA unit's round robin favours (R257) -/
  turns : Table Nat
  deriving DecidableEq, Repr

/-- Who waits on a tally (R228, R233, R295). -/
inductive Waiter where
  | core (c : Nat)
  | start (ctx task : Nat)
  | sendList (ctx dir : Nat)
  deriving DecidableEq, Repr

/-- One tally, tree tally or orchard slot (R223), with its holder, the paths of its children's arrivals (R236) and its line of
waiters with their counts and, in barrier mode, target generations (R232). -/
structure Tally where
  inuse : Bool
  barrier : Bool
  up : Bool
  count : BitVec 24
  p : Half
  gen : BitVec 8
  parent : Word
  owner : Nat
  paths : List Word
  line : List (Waiter × BitVec 24 × Option (BitVec 8))
  deriving DecidableEq, Repr

/-- A mapped page (R245, R247): KIND 0 HBM, 1 tier, 2 host; its frame once it holds one; the host bus address. -/
structure Page where
  kind : Nat
  frame : Option Nat
  addr : Nat
  w : Bool
  demand : Bool
  pin : Bool
  accessed : Bool
  deriving DecidableEq, Repr

/-- Mappings by ctx·2^36 + page address / 64 KiB, and the frames in use. -/
structure Vm where
  pages : Table (Option Page)
  hbmUsed : Table Bool
  tierUsed : Table Bool
  tierFrames : Nat
  deriving DecidableEq, Repr

/-- A fault record (R259). -/
structure FaultRec where
  kind : Nat
  ctx : Nat
  write : Bool
  core : Bool
  protect : Bool
  id : Nat
  va : Nat
  unit : Nat
  slot : Nat
  time : Word
  deriving DecidableEq, Repr

/-- A task descriptor as read (R201). -/
structure TaskDesc where
  prog : Word
  arg : Word
  clusters : Nat
  cores : Nat
  prio : Nat
  persist : Bool
  ftz : Bool
  notify : Bool
  seed : Half
  startTally : Nat
  pred : Nat
  succCount : Nat
  succ : List (Nat × Nat)
  stats : Nat
  timeout : Nat
  deriving DecidableEq, Repr

/-- Where a task stands. `done` holds its STATUS (R213). -/
inductive TaskPhase where
  | waiting
  | ready
  | running
  | done (status : Nat)
  deriving DecidableEq, Repr

/-- One task of an active graph. -/
structure TaskSt where
  desc : TaskDesc
  phase : TaskPhase
  started : List Nat
  ended : List Nat
  flags : Half
  stats : Stats
  startTime : Word
  /-- fault code, faulting unit path, FAULT_DETAIL -/
  fault : Option (Nat × Nat × Word)
  cancelled : Bool
  cycles : Nat
  matrixCycles : Nat
  rowStall : Nat
  colStall : Nat
  deriving DecidableEq, Repr

/-- A stream channel (R217) and the item it has in flight (R218). -/
structure Chan where
  srcCl : Nat
  srcRg : Nat
  dstCl : Nat
  dstRg : Nat
  dstTally : Nat
  srcTally : Nat
  flight : Option (List Byte × List Bool)
  /-- stopped by a fault of its own -/
  stopped : Bool
  deriving DecidableEq, Repr

/-- The active graph of a context (R199). -/
structure Graph where
  va : Word
  taskBase : Nat
  taskCount : Nat
  id : Nat
  complBase : Nat
  chans : List Chan
  accepted : Bool
  startTime : Word
  tasks : Table (Option TaskSt)
  /-- no new run starts: after a fault or a cancellation -/
  stopped : Bool
  cancelled : Bool
  /-- code, task or channel index, unit, detail -/
  fault : Option (Nat × Nat × Nat × Word)
  deriving DecidableEq, Repr

/-- A send list of a context (R295): entry, the first unit that has not left yet, whether GO was taken, and entry 0 as it was read at the
graph's start (R287), none where it could not be read. -/
structure SendList where
  on : Bool
  entry : Nat
  go : Bool
  waiting : Bool
  unit : Nat
  first : Option (List Byte)
  deriving DecidableEq, Repr, Inhabited

/-- The load of a context (R277, R280): STATE, reason, request fields and progress; `src` is where its shard starts at the source, `via`
the port of the read that is outstanding, and whether that read was issued again after a link had dropped. -/
structure LoadSt where
  state : Nat
  reason : Nat
  path : Nat
  hbmVa : Nat
  hbmBytes : Nat
  tierVa : Nat
  length : Nat
  bytes : Nat
  src : Nat
  peer : Nat
  srcCtx : Nat
  via : Option Nat
  reissued : Bool
  deriving DecidableEq, Repr

/-- Context states (R262). -/
inductive CState where
  | free
  | idle
  | running
  | preempting
  | harvested
  | restoring
  | reclaiming
  | scrubbing
  | frozen
  deriving DecidableEq, Repr

/-- What a harvest saves besides the bytes of R267 that the model lays out: the rest of GRAPH and CORE_STATE. `clusters` holds the graph
units' queues, the cores' regions and the DMA descriptors; `tallies` the waiters and child paths of cluster tallies. Log entry 80,
DESIGN CHOICE. -/
structure Snapshot where
  /-- SEQ, T_START and CLUSTER_MASK of the harvest -/
  seq : Nat
  began : Word
  mask : Nat
  cores : Table Core
  clusters : Table Cluster
  tallies : Table Tally
  graph : Option Graph
  deriving DecidableEq, Repr, Inhabited

/-- One context (R262) beside its objects. -/
structure Ctx where
  state : CState
  /-- END was written; KILL discards dirty lines -/
  ending : Bool
  killed : Bool
  /-- HKIND of the pre-emption in progress, 0 for none -/
  hkind : Nat
  /-- a harvest is being written: signals go to the log (R241) -/
  harvesting : Bool
  stalled : Bool
  adopting : Bool
  graphsRun : Bool
  stale : Half
  tables : Table (Option CodeTable)
  reserved : Table Bool
  graph : Option Graph
  log : List TallyMsg
  seq : Nat
  newest : Option Nat
  events : List (BitVec 128)
  eventCount : Nat
  faults : List FaultRec
  /-- fault records withdrawn by the harvest in progress, oldest first (R268, R270) -/
  saved : List FaultRec
  /-- orchard time when harvest writing began -/
  began : Word
  east : SendList
  west : SendList
  sent : Table Nat
  expected : Table Nat
  /-- RING_NOT_READY was raised for the forced pre-emption in progress (R305) -/
  notReady : Bool
  /-- the landing table as read at the graph's start (R287) -/
  landing : List Byte
  load : LoadSt
  salt : Nat
  freezing : Bool
  forwarded : Bool
  /-- FROZEN while it held no cluster: it holds none until it is FREE again -/
  bare : Bool
  deriving DecidableEq, Repr

/-- States of a link (R319). -/
inductive LinkState where
  | off
  | detect
  | lock
  | align
  | fecUp
  | ident
  | active
  | quiet
  | absent
  | miswired
  deriving DecidableEq, Repr

/-- A flit that waits for its acknowledgement (R315): its bytes, and the train that it belongs to: its number at the port and the start of
its header. -/
structure Held where
  flit : List Byte
  train : Nat
  head : List Byte
  deriving DecidableEq, Repr

/-- One link: 0 to 14 the optical engines 0 to 14, 15 to 18 the global ports (R309, R311, R315, R325). -/
structure Link where
  state : LinkState
  /-- consecutive failed attempts, retries of the state, milliseconds that its timeouts took, and the orchard time when the attempt began -/
  fails : Nat
  retries : Nat
  spent : Nat
  began : Word
  /-- lanes lit at DETECT, lanes lit now, lanes in use -/
  lit : BitVec 18
  now : BitVec 18
  used : BitVec 18
  /-- a RETRAIN excludes worn lanes in the next ALIGN -/
  skipWorn : Bool
  partner : List Byte
  tx : BitVec 12
  rx : BitVec 12
  rxAny : Bool
  replay : List Held
  /-- ACK fields of the last NAK received and how many in a row named them; a bad flit's replay is awaited; ACK fields and time of the
  last NAK sent -/
  nakFor : Option Nat
  nakCount : Nat
  dropping : Bool
  sentNak : Option Nat
  nakTime : Word
  credit2 : Nat
  credits : Table Nat
  grants : Table Nat
  lastTx : Word
  lastRx : Word
  hops : Nat
  tstate : Nat
  master : Word
  deriving DecidableEq, Repr

/-- What a train of a send list does for its list when it has left: the list, its units, whether it ends its entry, and the DONE_TALLY to
perform then, 0xFFFF for none (R295). -/
structure Sent where
  dir : Nat
  units : Nat
  ends : Bool
  done : Nat
  deriving DecidableEq, Repr

/-- A train waiting at egress (R290, R304): VC, context, its part of VC 2 (1 time and barrier, 2 other, 3 freeze), its STREAM once
it has begun to leave, whether it is forwarded, the payloads of flits left, bytes of the next payload so far, whether more will come, and the
start of its header. -/
structure EgTrain where
  id : Nat
  vc : Nat
  ctx : Nat
  cls : Nat
  stream : Option Nat
  forwarded : Bool
  chunks : List (List Byte)
  tail : List Byte
  more : Bool
  head : List Byte
  /-- a send list's train -/
  own : Option Sent
  /-- a time train's link (R325) -/
  link : Option Nat
  /-- the tally message that it carries -/
  msg : Option TallyMsg
  deriving DecidableEq, Repr

/-- A train being received (R296): header, payload held, units landed or added, discard verdict, last flit seen, the egress train
that carries it on, and the landing entries that have taken the present unit (R298). -/
structure RxTrain where
  header : List Byte
  payload : List Byte
  ctx : Nat
  discard : Bool
  finished : Bool
  units : Nat
  goesOn : Option Nat
  landed : List Nat
  deriving DecidableEq, Repr

/-- One port: bonded ring port 1 or 2, punnet 3 to 9, global 10 to 13 (R309): egress trains with the round-robin pointer of each
class (R163), trains received by stream, oldest first, and, for a bond (R284), the member that sends next, the member whose flit is merged next, and
flits that wait for their turn in the merge. -/
structure Port where
  egress : List EgTrain
  pointers : Table Nat
  rxs : Table (List RxTrain)
  nextId : Nat
  dealt : Nat
  merged : Nat
  early : Table (List (List Byte))
  deriving DecidableEq, Repr

/-- Orchard time (R324 to R329). -/
structure OTime where
  count : Word
  state : Nat
  upstream : Option Nat
  hops : Nat
  goodRun : Nat
  badRun : Nat
  stepped : Bool
  slew : Int
  phase : Nat
  lastOffset : Int
  master : Word
  deriving DecidableEq, Repr

/-- Logs and fault pins (R331, R340, R388, R417). -/
structure Faults where
  wf : List (BitVec 128)
  ce : List (BitVec 128)
  unack : Bool
  unackPkg : Bool
  thermLow : Bool
  /-- EVENT frames still to send: record and TXN (R378) -/
  events : List (BitVec 128 × Half)
  deriving DecidableEq, Repr

/-- The graft map (R342): physical unit by logical unit, failed columns per logical engine, fibres in use, units that failed or were retired,
and how many have been retired in all. -/
structure Graft where
  clusters : Table Nat
  cores : Table Nat
  columns : Table Nat
  optics : Table Nat
  fibres : BitVec 12
  badClusters : List Nat
  badCores : List Nat
  badColumns : List (Nat × Nat)
  badOptics : List Nat
  badFibres : List Nat
  retired : Nat
  deriving DecidableEq, Repr

/-- The queue registers of a context (R347) and its submission slots, with the records that wait (R351). -/
structure Sq where
  slots : Mem
  tail : BitVec 8
  head : BitVec 8
  result : Nat
  error : Bool
  discarded : BitVec 8
  cqBase : Word
  cqSize : W32
  cqHead : W32
  cqTail : W32
  fqBase : Word
  fqSize : W32
  fqHead : W32
  fqTail : W32
  irq : W32
  cqWait : List (List Byte)
  fqWait : List FaultRec
  deriving DecidableEq, Repr

/-- A BAR2 access that waits for a wake (R391). -/
inductive WinAccess where
  | read (off len : Nat)
  | write (off : Nat) (data : List Byte)
  deriving DecidableEq, Repr

/-- The host endpoint: mailbox, MSI-X, windows, package registers (R344 to R356). -/
structure HostIf where
  sqs : Table Sq
  req : Mem
  rsp : Mem
  busy : Bool
  done : Bool
  rejected : Bool
  rspLen : Nat
  /-- MSI-X table: addresses, data, vector control; pending bits; function mask -/
  msixAddr : Table Word
  msixData : Table W32
  msixOpen : Table Bool
  msixPend : Table Bool
  funcMask : Bool
  winCtrl : Table W32
  winBase : Table Word
  winRefused : W32
  held : List WinAccess
  wfIrq : W32
  wfSeen : W32
  busMaster : Bool
  /-- PERST_N deasserted; configuration requests answered -/
  linkUp : Bool
  answers : Bool
  deriving DecidableEq, Repr

/-- A request admitted to the management controller (R363). -/
structure Request where
  src : Source
  service : Nat
  index : Nat
  sub : Nat
  more : Bool
  len : Nat
  off : Nat
  data : List Byte
  deriving DecidableEq, Repr

/-- A pending segmented write (R362). -/
structure Seg where
  door : Door
  index : Nat
  sub : Nat
  data : List Byte
  deriving DecidableEq, Repr

/-- The last response to a source (R364). -/
structure Resp where
  mac : BitVec 48
  txn : Half
  service : Nat
  index : Nat
  sub : Nat
  off : Nat
  msg : List Byte
  time : Word
  deriving DecidableEq, Repr

/-- A journal entry (R376). -/
structure JEntry where
  time : Word
  source : BitVec 48
  kind : Nat
  sub : Nat
  index : Nat
  status : Nat
  length : Nat
  old : Word
  new : Word
  seq : Nat
  deriving DecidableEq, Repr

/-- The management controller and its flash (R357 to R378, R393). -/
structure Mgmt where
  queue : List Request
  segs : List Seg
  late : List Door
  cache : List Resp
  journal : List JEntry
  stored : Option (Table Nat)
  storing : Option (Table Nat)
  asset : Option (List Byte)
  slot0 : Bool
  slot1 : Bool
  /-- no status record for 1 s (R403) -/
  meterSilent : Bool
  /-- the last status record: energy mJ, power mW, meter time, mV, METER_STATUS, SEAL_STATE -/
  record : Nat × Nat × Nat × Nat × Nat × Nat
  /-- energy register at the last attribution (R409) -/
  lastEnergy : Option Nat
  deriving DecidableEq, Repr

/-- Clocks, P-states, power states, supplies (R379 to R396, R413). -/
structure Power where
  effective : Table Nat
  throttle : Table Nat
  changing : Table Bool
  /-- condition 0 or 1 of R386 shown by the last sample, by 2·die + condition; whether either holds, by die -/
  hotOnce : Table Bool
  holding : Table Bool
  /-- samples in a row, up to 2, at or above the trip limit by monitor, and out of range by supply; samples left until a slowed stack is
  free again (R387) -/
  tripRun : Table Nat
  supplyRun : Table Nat
  hbmSlow : Table Nat
  state : Nat
  entering : Option Nat
  waking : Bool
  vin : Bool
  vaux : Bool
  deriving DecidableEq, Repr

/-- Flags with no list entry (R171). -/
structure Arb where
  unlisted : List Nat
  deriving DecidableEq, Repr

/-- The meter die (R397 to R407). -/
structure Meter where
  running : Bool
  /-- energy register (mJ), sub-millijoule remainder (µJ), meter time in thousandths of its tick: a sample takes 4.096 ticks -/
  energy : Nat
  remainder : Nat
  time : Nat
  log : List (BitVec 128)
  logTotal : Nat
  status : Nat
  broken : Bool
  romCrc : W32
  calCrc : W32
  rejected : W32
  pulseLow : Bool
  pulsesDue : Nat
  /-- energy in µJ and samples since the last status record; last voltage -/
  spanUj : Nat
  samples : Nat
  mv : Nat
  deriving DecidableEq, Repr

/-- What has left the package toward the outside, oldest first: the model's record of its outputs. -/
inductive OutItem where
  | msix (vec : Nat) (addr : Word) (data : W32)
  /-- a management frame, from its destination on, in the order of its transmission (R6) -/
  | frame (bytes : List Byte)
  | flit (link : Nat) (bytes : List Byte)
  /-- completion of a BAR2 read, and its EP bit (R427) -/
  | bar2Data (bytes : List Byte) (ep : Bool)
  | completerAbort (off : Nat)
  | tally (m : TallyMsg)
  | peerData (bytes : List Byte)
  | debugData (bytes : List Byte)
  | debugRefused
  deriving DecidableEq, Repr

/-- Everything but the command queue and the meter die. Log entry 26, DESIGN CHOICE. -/
structure Dev where
  free : Nat
  out : List OutItem
  cores : Table Core
  clusters : Table Cluster
  tallies : Table Tally
  inflight : List TallyMsg
  mem : Mem
  poison : Table Bool
  upset : Table Bool
  vm : Vm
  ctxs : Table Ctx
  /-- what this package's harvests saved, in their order -/
  images : List Snapshot
  nextFault : Nat
  ports : Table Port
  links : Table Link
  routes : Table Half
  otime : OTime
  faults : Faults
  graft : Graft
  host : HostIf
  mgmt : Mgmt
  obj : Table Nat
  live : Table Nat
  arb : Arb
  power : Power
  deriving DecidableEq, Repr

/-- The block. -/
structure State where
  pending : List Instr
  meter : Meter
  dev : Dev
  deriving DecidableEq, Repr

/-- Why a step stops the model: nothing does. Every fault of the spec is a change of state (a task's fault code, a windfall, a status), and a
command that names a unit which the package does not have (R17, R18) changes nothing, or is answered as an object that does not exist
(log entry 26, DESIGN CHOICE). -/
inductive Fault where
  deriving DecidableEq, Repr

/-- Why a command has no meaning. -/
inductive Refusal where
  /-- Raised by an arm of exec that has no meaning yet. Safe: nothing is claimed. -/
  | notModelled (mnemonic : String)
  /-- Raised by NOP on a word whose OP is that of another listed instruction: that word is another command's. Safe: the same
  word runs under its own command. -/
  | otherInstruction
  deriving DecidableEq, Repr

/-- Empty counters. -/
def Stats.zero : Stats := ⟨[], 0, 0, 0, 0, 0, 0, 0⟩

/-- An engine with nothing loaded. -/
def Engine.reset : Engine := ⟨none, none, none, 0, 0, [], none, false⟩

/-- A core with every register zero and nothing running. Log entry 3, DESIGN CHOICE. -/
def Core.reset : Core :=
  { x := [], pc := 0, v := [], p := [], lfsr := 0, dcache := [], vq := [], latch := none, status := .idle, held := false, gated := false, inst := none,
    flags := 0, halfCycles := 0, fault := none, tload := none, adam := 0, queue := [], nextCmd := 0, engines := [] }

/-- A region record of all zeros. -/
def Region.reset : Region := ⟨0, 0, false, false, false, false, false, false, 0, 0, 0, 0, 0⟩

/-- A cluster that holds nothing. -/
def Cluster.reset : Cluster := ⟨[], [], [], [], [], [], none, false, false, []⟩

/-- A free tally (R222): the record of all zeros. -/
def Tally.reset : Tally := ⟨false, false, false, 0, 0, 0, 0, 0, [], []⟩

/-- A send list at entry 0 that does not run. -/
def SendList.reset : SendList := ⟨false, 0, false, false, 0, none⟩

/-- No load since CREATE. -/
def LoadSt.reset : LoadSt := ⟨0, 0, 0, 0, 0, 0, 0, 0, 0, 0, 0, none, false⟩

/-- A FREE context. -/
def Ctx.reset : Ctx :=
  { state := .free, ending := false, killed := false, hkind := 0, harvesting := false, stalled := false, adopting := false,
    graphsRun := false, stale := 0, tables := [], reserved := [], graph := none, log := [], seq := 0, newest := none,
    events := [], eventCount := 0, faults := [], saved := [], began := 0, east := .reset, west := .reset, sent := [], expected := [],
    notReady := false, landing := [], load := .reset, salt := 0, freezing := false, forwarded := false, bare := false }

/-- A link that is OFF. -/
def Link.reset : Link :=
  { state := .off, fails := 0, retries := 0, spent := 0, began := 0, lit := 0, now := 0, used := 0, skipWorn := false, partner := [], tx := 0, rx := 0,
    rxAny := false, replay := [], nakFor := none, nakCount := 0, dropping := false, sentNak := none, nakTime := 0, credit2 := 0, credits := [], grants := [],
    lastTx := 0, lastRx := 0, hops := 0xFFFF, tstate := 0, master := 0 }

/-- A port with nothing queued. -/
def Port.reset : Port := ⟨[], [], [], 0, 0, 0, []⟩

/-- Queue registers at their reset values (R347). -/
def Sq.reset : Sq :=
  { slots := [], tail := 0, head := 0, result := 0, error := false, discarded := 0, cqBase := 0, cqSize := 0,
    cqHead := 0, cqTail := 0, fqBase := 0, fqSize := 0, fqHead := 0, fqTail := 0, irq := 0, cqWait := [], fqWait := [] }

/-- The endpoint at its reset values (R345). Log entry 10, PRESUMED. -/
def HostIf.reset : HostIf :=
  { sqs := [], req := [], rsp := [], busy := false, done := false, rejected := false, rspLen := 0, msixAddr := [],
    msixData := [], msixOpen := [], msixPend := [], funcMask := false, winCtrl := [], winBase := [], winRefused := 0, held := [],
    wfIrq := 0, wfSeen := 0, busMaster := false, linkUp := false, answers := false }

/-- Orchard time at reset (R324, R327). -/
def OTime.reset : OTime := ⟨0, 0, none, 0xFFFF, 0, 0, false, 0, 0, 0, 0⟩

/-- The meter before its first start. Log entry 16, DESIGN CHOICE. -/
def Meter.reset : Meter := ⟨false, 0, 0, 0, [], 0, 0, false, 0, 0, 0, false, 0, 0, 0, 0⟩

/-- Everything but the queue and the meter, before power is applied. Log entries 1, 3, 7 to 9, 11, 12
and 14, DESIGN CHOICE, and log entry 10, PRESUMED. -/
def Dev.reset : Dev :=
  { free := 0, out := [], cores := [], clusters := [], tallies := [], inflight := [], mem := [], poison := [], upset := [],
    vm := ⟨[], [], [], 0⟩, ctxs := [], images := [], nextFault := 1, ports := [], links := [], routes := [], otime := .reset,
    faults := ⟨[], [], false, false, false, []⟩, graft := ⟨[], [], [], [], 0, [], [], [], [], [], 0⟩, host := .reset,
    mgmt := ⟨[], [], [], [], [], none, none, none, true, true, true, (0, 0, 0, 0, 0, 1), none⟩, obj := [], live := [],
    arb := ⟨[]⟩, power := ⟨[], [], [], [], [], [], [], [], 0, none, false, false, false⟩ }

/-- The block right after reset: nothing powered up, PKG_STATE STARTING, no command waiting. -/
def State.reset : State := { pending := [], meter := .reset, dev := .reset }

end Sys2Proof.Machine
end

