-- ==== Sys2Proof/Machine/Table.lean ====
section
/-! DEFINITION. Named operations on sparse tables, byte memory and little-endian byte strings (R6). -/

namespace Sys2Proof.Machine

variable {α : Type}

/-- What key `k` reads as: its entry, or `d` when none is listed. -/
def look (d : α) : Table α → Nat → α
  | [], _ => d
  | (k', v) :: r, k => if k' = k then v else if k < k' then d else look d r k

/-- Writes `v` at `k`, keeping the canonical form: writing `d` removes the entry. -/
def put [DecidableEq α] (d : α) : Table α → Nat → α → Table α
  | [], k, v => if v = d then [] else [(k, v)]
  | (k', v') :: r, k, v =>
    if k' = k then (if v = d then r else (k, v) :: r)
    else if k < k' then (if v = d then (k', v') :: r else (k, v) :: (k', v') :: r)
    else (k', v') :: put d r k v

/-- Changes what key `k` reads as. -/
def upd [DecidableEq α] (d : α) (t : Table α) (k : Nat) (f : α → α) : Table α := put d t k (f (look d t k))

/-- The keys of a table rise strictly. -/
def Rising (t : Table α) : Prop := t.Pairwise fun a b => a.1 < b.1

/-- A table with each key listed once, in order: its last entry stands. -/
def canon [DecidableEq α] (d : α) (t : Table α) : Table α := t.foldl (fun r e => put d r e.1 e.2) []

/-- Keys rise strictly from above `lo`, and no entry equals `d`. -/
def Table.wfFrom [DecidableEq α] (d : α) : Option Nat → Table α → Bool
  | _, [] => true
  | lo, (k, v) :: r =>
    (match lo with | none => true | some l => decide (l < k)) && decide (v ≠ d) && Table.wfFrom d (some k) r

/-- The canonical form of a table. -/
def Table.wf [DecidableEq α] (d : α) (t : Table α) : Bool := Table.wfFrom d none t

/-- The canonical form of byte memory: addresses rise strictly, and no byte equals the 0 that an unlisted address reads as. -/
def Memory.wf (m : Mem) : Bool := Table.wf 0 m

/-- `n` zero bytes. -/
def zeros (n : Nat) : List Byte := List.replicate n 0

/-- The value of a little-endian byte string. -/
def leNat : List Byte → Nat
  | [] => 0
  | b :: r => b.toNat + 256 * leNat r

/-- The `n` bytes of `v`, least significant first. -/
def toLE : Nat → Nat → List Byte
  | 0, _ => []
  | n + 1, v => BitVec.ofNat 8 v :: toLE n (v / 256)

/-- The field of `size` bytes at `off` of a record. -/
def fld (bs : List Byte) (off size : Nat) : Nat := leNat ((bs.drop off).take size)

/-- Bit `i` of a number. -/
def bit (n i : Nat) : Bool := n.testBit i

/-- Bits hi:lo of a number. -/
def bits (n hi lo : Nat) : Nat := (n >>> lo) % 2 ^ (hi + 1 - lo)

/-- One bit as a number. -/
def b2n (b : Bool) : Nat := if b then 1 else 0

/-- ceil(a / b). -/
def cdiv (a b : Nat) : Nat := (a + b - 1) / b

/-- Adds with saturation at `2^w − 1`. -/
def satAdd (w a b : Nat) : Nat := min (a + b) (2 ^ w - 1)

/-- The byte at address `a`. Log entry 1, DESIGN CHOICE. -/
def readByte (m : Mem) (a : Nat) : Byte := look 0 m a

/-- The `n` bytes from address `a`. -/
def readMem (m : Mem) (a n : Nat) : List Byte := (List.range n).map fun i => readByte m (a + i)

/-- The non-zero bytes of a string laid from address `a`. -/
def cellsAt : Nat → List Byte → Mem
  | _, [] => []
  | a, b :: r => if b = 0 then cellsAt (a + 1) r else (a, b) :: cellsAt (a + 1) r

/-- Writes a byte string at address `a`. -/
def writeMem (m : Mem) (a : Nat) (bs : List Byte) : Mem :=
  m.filter (fun c => decide (c.1 < a)) ++ (cellsAt a bs ++ m.filter (fun c => decide (a + bs.length ≤ c.1)))

/-- Sets `n` bytes from `a` to zero. -/
def zeroMem (m : Mem) (a n : Nat) : Mem := m.filter fun c => decide (c.1 < a ∨ a + n ≤ c.1)

/-- Copies `n` bytes from `src` of one memory over those at `dst` of another. -/
def copyMem (from_ to_ : Mem) (src dst n : Nat) : Mem :=
  to_.filter (fun c => decide (c.1 < dst)) ++
    (((from_.filter fun c => decide (src ≤ c.1 ∧ c.1 < src + n)).map fun c => (c.1 - src + dst, c.2)) ++
      to_.filter (fun c => decide (dst + n ≤ c.1)))

/-- Clears the flags of a Boolean table from key `a` for `n` keys. -/
def clearMarks (t : Table Bool) (a n : Nat) : Table Bool := t.filter fun c => decide (c.1 < a ∨ a + n ≤ c.1)

/-- Sets or clears one element of a list. -/
def setAt : List α → Nat → α → List α
  | [], _, _ => []
  | _ :: r, 0, v => v :: r
  | a :: r, n + 1, v => a :: setAt r n v

/-- Drops element `n`. -/
def dropAt : List α → Nat → List α
  | [], _ => []
  | _ :: r, 0 => r
  | a :: r, n + 1 => a :: dropAt r n

/-- Appends to a log that keeps its newest `cap` entries; also answers how many were overwritten. -/
def logPush (cap : Nat) (l : List α) (new : List α) : List α × Nat :=
  let all := l ++ new
  (all.drop (all.length - cap), all.length - cap)

end Sys2Proof.Machine
end

