-- ==== Sys2Proof/Machine/Flags.lean ====
section
/-! DEFINITION. The arithmetic flags (R65) and the shift registers of stochastic rounding (R77, R186). -/

namespace Sys2Proof.Machine

/-- a result was inexact -/
def fNX : Half := 0x001
/-- a tiny non-zero result was inexact or flushed -/
def fUF : Half := 0x002
/-- saturation, binary32 overflow or division by zero -/
def fOF : Half := 0x004
/-- a NaR or NaN result, or an invalid operation -/
def fNR : Half := 0x008
/-- clipped at conversion -/
def fCL : Half := 0x010
/-- a zero block with contents, or a reserved scale -/
def fZB : Half := 0x020
/-- more than one outlier in a block -/
def fSC : Half := 0x040
/-- a reserved T2 code -/
def fRZ : Half := 0x080
/-- compression merged symbols -/
def fLY : Half := 0x100

/-- A flag when a condition holds. -/
def flagIf (c : Bool) (f : Half) : Half := if c then f else 0

/-- One step of a 16-bit LFSR with taps 16, 14, 13, 11 (R77). -/
def lfsrStep (s : Half) : Half :=
  let b := ((s >>> 15) ^^^ (s >>> 13) ^^^ (s >>> 12) ^^^ (s >>> 10)) &&& 1
  (s <<< 1) ||| b

/-- A load value of 0x0000 is replaced by 0xACE1 (R77, R186). -/
def lfsrLoad (v : Half) : Half := if v = 0 then 0xACE1 else v

/-- `n` steps. -/
def lfsrSteps : Nat → Half → Half
  | 0, s => s
  | n + 1, s => lfsrSteps n (lfsrStep s)

/-- The random value of logical column `n` and row `m` of a command (R77): the state after m + 1 steps. Log entry 6, DEDUCED. -/
def columnRandom (seed : Half) (n m : Nat) : Nat :=
  (lfsrSteps (m + 1) (lfsrLoad (seed ^^^ BitVec.ofNat 16 n))).toNat

/-- Lane `l` of the lane LFSRs. -/
def laneLfsr (s : BitVec 2048) (l : Nat) : Half := BitVec.ofNat 16 (s.toNat >>> (16 * l))

/-- Packs `n` fields of `w` bits, field 0 lowest. -/
def packNat (w : Nat) (f : Nat → Nat) : Nat → Nat
  | 0 => 0
  | n + 1 => packNat w f n + (f n % 2 ^ w) <<< (w * n)

/-- The lane LFSRs at the start of a task (R186). -/
def laneLfsrInit (seed : Half) : BitVec 2048 :=
  BitVec.ofNat 2048 (packNat 16 (fun l => (lfsrLoad (seed ^^^ BitVec.ofNat 16 (0x4000 + l))).toNat) 128)

/-- Every lane's LFSR steps `n` times. -/
def laneLfsrSteps (s : BitVec 2048) (n : Nat) : BitVec 2048 :=
  BitVec.ofNat 2048 (packNat 16 (fun l => (lfsrSteps n (laneLfsr s l)).toNat) 128)

end Sys2Proof.Machine
end

