-- ==== Sys2Proof/Machine/Num.lean ====
section
/-! DEFINITION. Exact dyadic numbers and the one rounding of each format: A24 (R39 to R41, R57), F8 (R33 to R36), binary32
(R53, R54), integers (R184, R195), with the directions of R179 and stochastic rounding (R78). -/

namespace Sys2Proof.Machine

/-- The exact number m·2^e. -/
structure Dy where
  m : Int
  e : Int
  deriving DecidableEq, Repr

/-- Rounding directions of R179; `sr r` is stochastic with random value r. -/
inductive RMode where
  | rne
  | rtz
  | rup
  | rdn
  | sr (r : Nat)
  deriving DecidableEq, Repr

/-- m·2^k for k at or above 0. -/
def shl2 (m : Int) (k : Int) : Int := m * (2 ^ k.toNat : Nat)

def Dy.zero : Dy := ⟨0, 0⟩
def Dy.add (a b : Dy) : Dy :=
  let e := min a.e b.e
  ⟨shl2 a.m (a.e - e) + shl2 b.m (b.e - e), e⟩
def Dy.neg (a : Dy) : Dy := ⟨-a.m, a.e⟩
def Dy.mul (a b : Dy) : Dy := ⟨a.m * b.m, a.e + b.e⟩
def Dy.abs (a : Dy) : Dy := ⟨a.m.natAbs, a.e⟩
def Dy.isZero (a : Dy) : Bool := decide (a.m = 0)
def Dy.isNeg (a : Dy) : Bool := decide (a.m < 0)
/-- a < b -/
def Dy.lt (a b : Dy) : Bool := (a.add b.neg).isNeg
/-- a ≤ b -/
def Dy.le (a b : Dy) : Bool := !b.lt a
/-- The integer n. -/
def Dy.ofInt (n : Int) : Dy := ⟨n, 0⟩
/-- 2^k -/
def Dy.pow2 (k : Int) : Dy := ⟨1, k⟩
/-- floor(log2 |a|) of a non-zero number. -/
def Dy.ilog2 (a : Dy) : Int := (Nat.log2 a.m.natAbs : Int) + a.e

/-- Whether the magnitude n + rem/den (0 < rem < den) goes to n + 1. -/
def bumps (mode : RMode) (neg : Bool) (n rem den : Nat) : Bool :=
  match mode with
  | .rne => decide (den < 2 * rem) || (decide (den = 2 * rem) && decide (n % 2 = 1))
  | .rtz => false
  | .rup => !neg
  | .rdn => neg
  | .sr r =>
    let hi := decide (r < (65536 * (if neg then den - rem else rem)) / den + 1)
    if neg then !hi else hi

/-- |a| in units of 2^q: whole part, remainder, denominator. -/
def Dy.quanta (a : Dy) (q : Int) : Nat × Nat × Nat :=
  if q ≤ a.e then (a.m.natAbs * 2 ^ (a.e - q).toNat, 0, 1)
  else
    let den : Nat := 2 ^ (q - a.e).toNat
    (a.m.natAbs / den, a.m.natAbs % den, den)

/-- |a| rounded to a multiple of 2^q, in units of 2^q, and whether that was inexact. -/
def Dy.roundAt (a : Dy) (mode : RMode) (q : Int) : Nat × Bool :=
  let (n, rem, den) := a.quanta q
  if rem = 0 then (n, false) else (if bumps mode a.isNeg n rem den then n + 1 else n, true)

/-- |a| rounded to p significant bits with no digit below 2^qmin: digits, their unit, inexact. -/
def Dy.round (a : Dy) (mode : RMode) (p : Nat) (qmin : Int) : Nat × Int × Bool :=
  let q := max qmin (a.ilog2 - (p - 1 : Nat))
  let (n, ix) := a.roundAt mode q
  if n = 2 ^ p then (2 ^ (p - 1), q + 1, ix) else (n, q, ix)

/-- A quotient a/b of naturals times 2^e, exact but for a sticky last bit far below any rounding position. -/
def stickyQuot (a b : Nat) (e : Int) : Dy :=
  let t : Nat := (a * 2 ^ 160) / b
  ⟨((2 * t + (if (a * 2 ^ 160) % b = 0 then 0 else 1) : Nat) : Int), e - 161⟩

/-- Integer square root by bits, from bit `k` down. -/
def isqrtBits : Nat → Nat → Nat → Nat
  | 0, n, r => if (r + 1) * (r + 1) ≤ n then r + 1 else r
  | k + 1, n, r =>
    let r' := r + 2 ^ (k + 1)
    isqrtBits k n (if r' * r' ≤ n then r' else r)

/-! ### A24 -/

/-- The A24 code of digits n·2^q with sign, n below 2^16 (R39). -/
def a24Code (neg : Bool) (n : Nat) (q : Int) : BitVec 24 :=
  if n = 0 then 0
  else
    let mag := if n < 2 ^ 15 then n else ((q + 142).toNat <<< 15) + (n - 2 ^ 15)
    BitVec.ofNat 24 (mag + (if neg then 2 ^ 23 else 0))

/-- The value of an A24 code (R39). -/
def a24Val (c : BitVec 24) : Val :=
  let n := c.toNat
  let s := bit n 23
  let e := bits n 22 15
  let f := bits n 14 0
  if e = 0 ∧ f = 0 then (if s then .nar else .num 0 0)
  else
    let m : Int := if e = 0 then f else 2 ^ 15 + f
    .num (if s then -m else m) (if e = 0 then -141 else (e : Int) - 142)

/-- NaR of A24. -/
def a24NaR : BitVec 24 := 0x800000

/-- Rounds an exact value to A24 (R57), with FTZ (R58). Log entry 23, DEDUCED. -/
def a24Round (ftz : Bool) (a : Dy) : BitVec 24 × Half :=
  if a.isZero then (0, 0)
  else
    let (n, q, ix) := a.round .rne 16 (-141)
    if 114 ≤ q then (a24Code a.isNeg (2 ^ 16 - 1) 113, fOF ||| fNX)
    else if ftz && decide (0 < n) && decide (n < 2 ^ 15) then (0, fUF ||| fNX)
    else (a24Code a.isNeg n q, flagIf ix fNX ||| flagIf (ix && a.abs.lt (Dy.pow2 (-126))) fUF)

/-! ### F8 -/

/-- The value of an F8 code (R33). -/
def f8Val (c : Byte) : Val :=
  let n := c.toNat
  let s := bit n 7
  let e := bits n 6 3
  let f := bits n 2 0
  if e = 0 ∧ f = 0 then (if s then .nar else .num 0 0)
  else
    let m : Int := if e = 0 then f else 8 + f
    .num (if s then -m else m) (if e = 0 then -8 else (e : Int) - 9)

/-- Rounds an exact value to F8 (R35, R36, R78). -/
def f8Round (mode : RMode) (a : Dy) : Byte × Half :=
  if a.isZero then (0, 0)
  else
    let sgn : Nat := if a.isNeg then 0x80 else 0
    if Dy.le (Dy.ofInt 992) a.abs then (BitVec.ofNat 8 (0x7F + sgn), fOF ||| fNX)
    else if (Dy.ofInt 960).lt a.abs then (BitVec.ofNat 8 (0x7F + sgn), fNX)
    else
      let (n, q, ix) := a.round mode 4 (-8)
      let mag := if n < 8 then n else ((q + 9).toNat <<< 3) + (n - 8)
      (if n = 0 then 0 else BitVec.ofNat 8 (mag + sgn), flagIf ix fNX ||| flagIf (ix && a.abs.lt (Dy.pow2 (-5))) fUF)

/-- NaR of F8. -/
def f8NaR : Byte := 0x80

/-! ### binary32 -/

/-- An unpacked binary32 value. -/
inductive Fp where
  | nan (signalling : Bool)
  | inf (neg : Bool)
  | fin (neg : Bool) (m : Nat) (e : Int)
  deriving DecidableEq, Repr

/-- The canonical quiet NaN (R53). -/
def qNaN : W32 := 0x7FC00000

def f32Inf (neg : Bool) : W32 := if neg then 0xFF800000 else 0x7F800000
def f32Max (neg : Bool) : W32 := if neg then 0xFF7FFFFF else 0x7F7FFFFF
def f32Zero (neg : Bool) : W32 := if neg then 0x80000000 else 0

/-- Unpacks a binary32 code. -/
def f32Unpack (c : W32) : Fp :=
  let n := c.toNat
  let s := bit n 31
  let e := bits n 30 23
  let f := bits n 22 0
  if e = 255 then (if f = 0 then .inf s else .nan (decide (f < 2 ^ 22)))
  else if e = 0 then .fin s f (-149)
  else .fin s (2 ^ 23 + f) ((e : Int) - 150)

/-- The exact value of a finite binary32 (0 for others). -/
def Fp.dy : Fp → Dy
  | .fin s m e => ⟨if s then -(m : Int) else m, e⟩
  | _ => Dy.zero

def Fp.isNaN : Fp → Bool
  | .nan _ => true
  | _ => false

def Fp.isSNaN : Fp → Bool
  | .nan s => s
  | _ => false

def Fp.isZero : Fp → Bool
  | .fin _ 0 _ => true
  | _ => false

def Fp.neg : Fp → Bool
  | .nan _ => false
  | .inf s => s
  | .fin s _ _ => s

/-- The code of digits n·2^q with sign, n below 2^24. -/
def f32Code (neg : Bool) (n : Nat) (q : Int) : W32 :=
  let mag := if n < 2 ^ 23 then n else ((q + 150).toNat <<< 23) + (n - 2 ^ 23)
  BitVec.ofNat 32 (mag + (if neg then 2 ^ 31 else 0))

/-- Rounds an exact non-zero value to binary32 (R53, R54); an exact zero has sign `zneg`. Log entry 74, DEDUCED. -/
def f32Round (mode : RMode) (zneg : Bool) (a : Dy) : W32 × Half :=
  if a.isZero then (f32Zero zneg, 0)
  else
    let neg := a.isNeg
    let (n, q, ix) := a.round mode 24 (-149)
    let big := decide (105 ≤ q)
    match mode with
    | .sr _ =>
      if decide (105 ≤ (a.round .rne 24 (-149)).2.1) then (f32Inf neg, fOF ||| fNX)
      else if big || (Dy.abs ⟨2 ^ 24 - 1, 104⟩).lt a.abs then (f32Max neg, fNX)
      else
        let tiny := Dy.lt ⟨(a.round mode 24 (a.ilog2 - 23)).1, (a.round mode 24 (a.ilog2 - 23)).2.1⟩ (Dy.pow2 (-126))
        (f32Code neg n q, flagIf ix fNX ||| flagIf (ix && tiny) fUF)
    | _ =>
      if big then
        let toInf := match mode with
          | .rtz => false
          | .rup => !neg
          | .rdn => neg
          | _ => true
        (if toInf then f32Inf neg else f32Max neg, fOF ||| fNX)
      else
        let tiny := Dy.lt ⟨(a.round mode 24 (a.ilog2 - 23)).1, (a.round mode 24 (a.ilog2 - 23)).2.1⟩ (Dy.pow2 (-126))
        (f32Code neg n q, flagIf ix fNX ||| flagIf (ix && tiny) fUF)

/-- Sign of an exact zero sum: like signs keep it, otherwise + but − when rounding toward −∞. -/
def zeroSign (mode : RMode) (s t : Bool) : Bool := if s = t then s else decide (mode = .rdn)

/-- a + b -/
def f32Add (mode : RMode) (a b : W32) : W32 × Half :=
  match f32Unpack a, f32Unpack b with
  | .nan _, _ => (qNaN, fNR)
  | _, .nan _ => (qNaN, fNR)
  | .inf s, .inf t => if s = t then (f32Inf s, 0) else (qNaN, fNR)
  | .inf s, _ => (f32Inf s, 0)
  | _, .inf t => (f32Inf t, 0)
  | .fin s m e, .fin t n k =>
    f32Round mode (if m = 0 ∧ n = 0 then zeroSign mode s t else decide (mode = .rdn))
      (Dy.add (Fp.dy (.fin s m e)) (Fp.dy (.fin t n k)))

/-- −a by its sign bit. -/
def f32Neg (a : W32) : W32 := a ^^^ 0x80000000

/-- a − b -/
def f32Sub (mode : RMode) (a b : W32) : W32 × Half := f32Add mode a (f32Neg b)

/-- a × b -/
def f32Mul (mode : RMode) (a b : W32) : W32 × Half :=
  match f32Unpack a, f32Unpack b with
  | .nan _, _ => (qNaN, fNR)
  | _, .nan _ => (qNaN, fNR)
  | .inf s, y => if y.isZero then (qNaN, fNR) else (f32Inf (s != y.neg), 0)
  | x, .inf t => if x.isZero then (qNaN, fNR) else (f32Inf (x.neg != t), 0)
  | .fin s m e, .fin t n k => f32Round mode (s != t) (Dy.mul (Fp.dy (.fin s m e)) (Fp.dy (.fin t n k)))

/-- a × b + c with one rounding (R53). -/
def f32Fma (mode : RMode) (a b c : W32) : W32 × Half :=
  let x := f32Unpack a
  let y := f32Unpack b
  let z := f32Unpack c
  if x.isNaN || y.isNaN || z.isNaN then (qNaN, fNR)
  else match x, y with
    | .fin s m e, .fin t n k =>
      match z with
      | .fin u l j =>
        let prod := Dy.mul (Fp.dy (.fin s m e)) (Fp.dy (.fin t n k))
        f32Round mode (if prod.isZero ∧ l = 0 then zeroSign mode (s != t) u else decide (mode = .rdn))
          (Dy.add prod (Fp.dy (.fin u l j)))
      | .inf u => (f32Inf u, 0)
      | .nan _ => (qNaN, fNR)
    | _, _ =>
      if x.isZero || y.isZero then (qNaN, fNR)
      else
        let s := x.neg != y.neg
        match z with
        | .inf u => if s = u then (f32Inf s, 0) else (qNaN, fNR)
        | _ => (f32Inf s, 0)

/-- a / b, correctly rounded; division by zero sets OF (R54). -/
def f32Div (mode : RMode) (a b : W32) : W32 × Half :=
  match f32Unpack a, f32Unpack b with
  | .nan _, _ => (qNaN, fNR)
  | _, .nan _ => (qNaN, fNR)
  | .inf _, .inf _ => (qNaN, fNR)
  | .inf s, y => (f32Inf (s != y.neg), 0)
  | x, .inf t => (f32Zero (x.neg != t), 0)
  | .fin s m e, .fin t n k =>
    if n = 0 then (if m = 0 then (qNaN, fNR) else (f32Inf (s != t), fOF))
    else if m = 0 then (f32Zero (s != t), 0)
    else
      let q := stickyQuot m n (e - k)
      f32Round mode false (if s != t then q.neg else q)

/-- √a, correctly rounded. -/
def f32Sqrt (mode : RMode) (a : W32) : W32 × Half :=
  match f32Unpack a with
  | .nan _ => (qNaN, fNR)
  | .inf s => if s then (qNaN, fNR) else (f32Inf false, 0)
  | .fin s m e =>
    if m = 0 then (f32Zero s, 0)
    else if s then (qNaN, fNR)
    else
      let m' := if e % 2 = 0 then m else 2 * m
      let e' := if e % 2 = 0 then e else e - 1
      let n := m' * 2 ^ 160
      let r := isqrtBits 100 n 0
      f32Round mode false ⟨((2 * r + (if r * r = n then 0 else 1) : Nat) : Int), e' / 2 - 81⟩

/-- a < b of two values that are not NaN, with infinities. -/
def Fp.ltNum (a b : Fp) : Bool :=
  match a, b with
  | .inf s, .inf t => s && !t
  | .inf s, _ => s
  | _, .inf t => !t
  | x, y => x.dy.lt y.dy

/-- IEEE 754-2019 maximum and minimum (R185): NaN gives NaN, −0 below +0. -/
def f32MaxMin (isMax : Bool) (a b : W32) : W32 × Half :=
  let x := f32Unpack a
  let y := f32Unpack b
  if x.isNaN || y.isNaN then (qNaN, fNR)
  else
    let aLess := x.ltNum y || (!(y.ltNum x) && x.neg && !y.neg)
    (if aLess = isMax then b else a, 0)

/-- VCMP's comparison IMM[1:0] on binary32 (R185): 0 eq, 1 lt, 2 le, 3 ne. -/
def f32Cmp (op : Nat) (a b : W32) : Bool × Half :=
  let x := f32Unpack a
  let y := f32Unpack b
  let fl := flagIf (x.isSNaN || y.isSNaN) fNR
  if x.isNaN || y.isNaN then (decide (op = 3), fl)
  else
    let lt := x.ltNum y
    let gt := y.ltNum x
    let r := match op with
      | 0 => !lt && !gt
      | 1 => lt
      | 2 => !gt
      | _ => lt || gt
    (r, fl)

/-- A binary32 as an exact value: none for NaN, infinities as a number above every finite one. -/
def f32Mag (c : W32) : Option Dy :=
  match f32Unpack c with
  | .nan _ => none
  | .inf s => some (if s then ⟨-1, 4096⟩ else ⟨1, 4096⟩)
  | x => some x.dy

/-- binary32 to F8 (R35). -/
def f32ToF8 (mode : RMode) (c : W32) : Byte × Half :=
  match f32Mag c with
  | none => (f8NaR, fNR)
  | some d => f8Round mode d

/-- binary32 to A24 (R41), with FTZ (R58). -/
def f32ToA24 (ftz : Bool) (c : W32) : BitVec 24 × Half :=
  match f32Unpack c with
  | .nan _ => (a24NaR, fNR)
  | .inf s => (a24Code s (2 ^ 16 - 1) 113, fOF ||| fNX)
  | x => a24Round ftz x.dy

/-- A24 to binary32 (R41). -/
def a24ToF32 (c : BitVec 24) : W32 × Half :=
  match a24Val c with
  | .nar => (qNaN, fNR)
  | .num _ _ => if bits c.toNat 22 15 = 255 then (f32Inf (bit c.toNat 23), fOF ||| fNX) else (BitVec.ofNat 32 (c.toNat * 256), 0)

/-- An exact value that binary32 holds, as its code. -/
def valToF32 (v : Val) : W32 :=
  match v with
  | .nar => qNaN
  | .num m e => (f32Round .rne false ⟨m, e⟩).1

/-- The value of a finite binary32, or NaR for NaN and infinities (R52). -/
def f32Val (c : W32) : Val :=
  match f32Unpack c with
  | .fin s m e => .num (if s then -(m : Int) else m) e
  | _ => .nar

/-- Exact product of decoded values (R56). -/
def Val.mul (a b : Val) : Val :=
  match a, b with
  | .num m e, .num n k => .num (m * n) (e + k)
  | _, _ => .nar

/-- Exact sum. -/
def Val.add (a b : Val) : Val :=
  match a, b with
  | .num m e, .num n k => let d := Dy.add ⟨m, e⟩ ⟨n, k⟩; .num d.m d.e
  | _, _ => .nar

/-- Rounds an exact value or NaR to A24 (R57). -/
def Val.toA24 (ftz : Bool) (v : Val) : BitVec 24 × Half :=
  match v with
  | .nar => (a24NaR, fNR)
  | .num m e => a24Round ftz ⟨m, e⟩

/-- An exact value rounded to an integer and held within lo to hi: the table of R195, judged on rounding to nearest under
stochastic rounding (R78). -/
def intRound (mode : RMode) (lo hi : Int) (a : Dy) : Int × Half :=
  let at_ (md : RMode) : Int := let (n, _) := a.roundAt md 0; if a.isNeg then -(n : Int) else n
  let ix := (a.roundAt mode 0).2
  let judge := match mode with
    | .sr _ => at_ .rne
    | md => at_ md
  if hi < judge then (hi, fOF ||| flagIf true fNX)
  else if judge < lo then (lo, fOF ||| flagIf true fNX)
  else (max lo (min hi (at_ mode)), flagIf ix fNX)

/-- binary32 to an integer of lo to hi (R195). -/
def f32ToInt (mode : RMode) (lo hi : Int) (c : W32) : Int × Half :=
  match f32Unpack c with
  | .nan _ => (0, fNR)
  | .inf s => (if s then lo else hi, fOF)
  | x => intRound mode lo hi x.dy

/-- Histogram bin of a binary32 result, and of an A24 result (R79). -/
def binOf (e : Int) : Nat := (max 1 (min 62 (e + 48))).toNat
def binF32 (c : W32) : Nat :=
  match f32Unpack c with
  | .nan _ => 63
  | .inf _ => 62
  | x => if x.dy.isZero then 0 else binOf x.dy.ilog2
def binA24 (c : BitVec 24) : Nat :=
  match a24Val c with
  | .nar => 63
  | .num m e => if m = 0 then 0 else binOf (Dy.ilog2 ⟨m, e⟩)

end Sys2Proof.Machine
end

