-- ==== Sys2Proof/Machine/Blocks.lean ====
section
/-! DEFINITION. Block formats: decoding (R27 to R32, R37, R42 to R50) and encoding (R70 to R76, R78). Format 0 QB4, 1 PB4, 2 TB2. -/

namespace Sys2Proof.Machine

/-- Bytes of element codes in a block (R43, R44). -/
def elemBytes (fmt : Nat) : Nat := if fmt = 2 then 8 else 16

/-- Bytes of a block. -/
def blockBytes (fmt : Nat) : Nat := elemBytes fmt + 4

/-- The value of an S8 code of at least 0x04 (R37): (4 + m)·2^(e − 42). -/
def s8Dy (c : Nat) : Dy := ⟨(4 + c % 4 : Nat), (c / 4 : Nat) - 42⟩

/-- Element code `i` of a block. -/
def elemCode (fmt : Nat) (b : List Byte) (i : Nat) : Nat :=
  if fmt = 2 then ((b.getD (i / 4) 0).toNat >>> (2 * (i % 4))) % 4
  else ((b.getD (i / 2) 0).toNat >>> (4 * (i % 2))) % 16

/-- The value of an element code, scale left out (R27, R29, R31). -/
def elemDy (fmt code : Nat) : Dy :=
  match fmt with
  | 0 => ⟨(if code < 8 then (code : Int) else (code : Int) - 16), 0⟩
  | 1 => if code % 8 = 0 then ⟨0, 0⟩ else ⟨(if code < 8 then 1 else -1), (code % 8 : Nat) - 4⟩
  | _ => ⟨(if code = 1 then 1 else if code = 3 then -1 else 0), 0⟩

/-- A zero code: 0x0, and for P4 also 0x8 (R45, R47). -/
def isZeroCode (fmt code : Nat) : Bool := decide (code = 0) || (decide (fmt = 1) && decide (code = 8))

def blkScale (fmt : Nat) (b : List Byte) : Nat := (b.getD (elemBytes fmt) 0).toNat
def blkTag (fmt : Nat) (b : List Byte) : Nat := (b.getD (elemBytes fmt + 1) 0).toNat
def blkSide (fmt : Nat) (b : List Byte) : Byte := b.getD (elemBytes fmt + 2) 0

/-- Whether decoding a block sets ZB; only elements `inside` the tensor are examined (R47). -/
def blockZB (fmt : Nat) (b : List Byte) (inside : Nat → Bool) : Bool :=
  let sc := blkScale fmt b
  decide (sc < 4) && (decide (sc ≠ 0) || bit (blkTag fmt b) 7 ||
    (List.range 32).any fun i => inside i && !isZeroCode fmt (elemCode fmt b i))

/-- The decoded value of element `i` (R45, R46, R47). -/
def blockElem (fmt : Nat) (b : List Byte) (i : Nat) : Val :=
  let sc := blkScale fmt b
  if sc < 4 then .num 0 0
  else
    let s := s8Dy sc
    if bit (blkTag fmt b) 7 && decide (blkTag fmt b % 32 = i) then (f8Val (blkSide fmt b)).mul (.num s.m s.e)
    else
      let d := (elemDy fmt (elemCode fmt b i)).mul s
      .num d.m d.e

/-- Whether an element inside the tensor carries the reserved T2 code and is decoded (R48). -/
def blockRZ (fmt : Nat) (b : List Byte) (inside : Nat → Bool) : Bool :=
  decide (fmt = 2) && decide (4 ≤ blkScale fmt b) && (List.range 32).any fun i =>
    inside i && decide (elemCode fmt b i = 2) && !(bit (blkTag fmt b) 7 && decide (blkTag fmt b % 32 = i))

/-- The flags of decoding a block. -/
def blockFlags (fmt : Nat) (b : List Byte) (inside : Nat → Bool) : Half :=
  flagIf (blockZB fmt b inside) fZB ||| flagIf (blockRZ fmt b inside) fRZ

/-- Lays out a block from its element codes, scale, tag and sidecar (R43, R44). -/
def blockOf (fmt : Nat) (code : Nat → Nat) (scale tag : Nat) (side : Byte) : List Byte :=
  let elems := if fmt = 2 then
      (List.range 8).map fun i => BitVec.ofNat 8 (code (4 * i) + 4 * code (4 * i + 1) + 16 * code (4 * i + 2) + 64 * code (4 * i + 3))
    else (List.range 16).map fun i => BitVec.ofNat 8 (code (2 * i) + 16 * code (2 * i + 1))
  elems ++ [BitVec.ofNat 8 scale, BitVec.ofNat 8 tag, side, 0]

/-- The form in which a poisoned block is written (R126). -/
def poisonedBlock (fmt : Nat) : List Byte := blockOf fmt (fun _ => 0) 0xA0 0x80 0x80

/-! ### Encoding -/

/-- Magnitudes of the element grid, in eighths: I4 0 to 7 (8 on the full negative side), P4 0 and 2^(c−4), T2 0 and 1. -/
def grid (fmt : Nat) (full : Bool) : List Nat :=
  match fmt with
  | 0 => if full then [0, 8, 16, 24, 32, 40, 48, 56, 64] else [0, 8, 16, 24, 32, 40, 48, 56]
  | 1 => [0, 1, 2, 4, 8, 16, 32, 64]
  | _ => [0, 8]

/-- Finds the grid step of a/b (in eighths): index below, its magnitude and the next one, none past the end. -/
def gridFind (a b : Nat) : Nat → List Nat → Nat × Nat × Option Nat
  | i, g :: g' :: r => if a < g' * b then (i, g, some g') else gridFind a b (i + 1) (g' :: r)
  | i, [g] => (i, g, none)
  | i, [] => (i, 0, none)

/-- Encodes the magnitude a/b (in eighths): grid index, inexact, beyond the range. A value beyond the last magnitude is out of
range when it does not round to nearest onto it (R78); T2 has no such margin (R73). On the full negative side of QB4 a value beyond the
range becomes −8 (log entry 131, DEDUCED). -/
def gridRound (fmt : Nat) (full : Bool) (mode : RMode) (neg : Bool) (a b : Nat) : Nat × Bool × Bool :=
  match gridFind a b 0 (grid fmt full) with
  | (i, g, some g') =>
    let rem := a - g * b
    if rem = 0 then (i, false, false)
    else (if bumps mode neg i rem ((g' - g) * b) then i + 1 else i, true, false)
  | (i, g, none) =>
    if a = g * b then (i, false, false)
    else
      let step := match fmt with
        | 0 => 8
        | 1 => 64
        | _ => 0
      let out := if fmt = 0 ∧ full then decide ((2 * g + step) * b < 2 * a) else decide ((2 * g + step) * b ≤ 2 * a)
      (i, true, out)

/-- The element code of grid index i with sign. -/
def gridCode (fmt : Nat) (neg : Bool) (i : Nat) : Nat :=
  if i = 0 then 0
  else match fmt with
    | 0 => if neg then 16 - i else i
    | 1 => if neg then 8 + i else i
    | _ => if neg then 3 else 1

/-- |v|/s in eighths as a fraction. -/
def scaled (v : Dy) (sc : Nat) : Nat × Nat :=
  let s := s8Dy sc
  let k := v.e - s.e + 3
  if 0 ≤ k then (v.m.natAbs * 2 ^ k.toNat, s.m.natAbs) else (v.m.natAbs, s.m.natAbs * 2 ^ (-k).toNat)

/-- A column of a group to encode: its index, exact value (none for NaN), direction of rounding. -/
structure EncCol where
  i : Nat
  v : Option Dy
  mode : RMode
  deriving DecidableEq, Repr

/-- Inserts by falling magnitude, lower index first on a tie (R72). -/
def rankInsert (c : Nat × Dy) : List (Nat × Dy) → List (Nat × Dy)
  | [] => [c]
  | h :: r => if h.2.abs.lt c.2.abs then c :: h :: r else h :: rankInsert c r

/-- The real values of a group by rank. -/
def rank (cs : List EncCol) : List (Nat × Dy) :=
  cs.foldl (fun acc c => match c.v with | some d => rankInsert (c.i, d) acc | none => acc) []

/-- M_a ≥ 2^t × M_b with M_b above 0; an infinite M_a is at least anything. -/
def outlies (t : Nat) (a b : Dy) : Bool :=
  decide (b.m ≠ 0) && (Dy.le (Dy.mul b.abs (Dy.pow2 t)) a.abs || Dy.le (Dy.pow2 4096) a.abs)

/-- The outlier count k (R72). -/
def outlierCount (t : Nat) (r : List (Nat × Dy)) : Nat :=
  if t = 0 then 0
  else
    let m (i : Nat) : Dy := (r.getD i (0, Dy.zero)).2
    if outlies t (m 0) (m 1) then 1 else if outlies t (m 1) (m 2) then 2 else 0

/-- v ≤ emax·s for the scale code c. Log entry 57, DEDUCED. -/
def fitsScale (c emax : Nat) (v : Dy) : Bool := Dy.le v.abs (Dy.mul (Dy.ofInt emax) (s8Dy c))

/-- The smallest S8 code from `c` on that fits, 0xFF when none does (R73). -/
def findScale (ok : Nat → Bool) : Nat → Nat → Nat
  | 0, _ => 0xFF
  | n + 1, c => if ok c then c else findScale ok n (c + 1)

/-- What encoding a group gives: the block, its flags, values clipped as rank-2 outliers, and whether SC_VALID is 1. -/
structure Encoded where
  bytes : List Byte
  flags : Half
  extra : Nat
  side : Bool
  deriving DecidableEq, Repr

/-- Largest magnitude on the positive and on the negative side (R73). -/
def emaxOf (fmt : Nat) (full neg : Bool) : Nat :=
  match fmt with
  | 0 => if full && neg then 8 else 7
  | 1 => 8
  | _ => 1

/-- Encodes the columns inside the tensor of a group of 32 (R70 to R76). A clipped rank-2 value counts in SC_EXTRA_COUNT, in a group
with a NaR too (log entry 132, DEDUCED). Log entry 56, DEDUCED. -/
def encodeBlock (fmt t : Nat) (i4full : Bool) (cs : List EncCol) : Encoded :=
  let full := i4full && decide (fmt = 0)
  let nans := cs.filter fun c => c.v.isNone
  if (cs.all fun c => match c.v with | some d => d.isZero | none => false) then ⟨zeros (blockBytes fmt), 0, 0, false⟩
  else
    let r := rank cs
    let k := outlierCount t r
    let outs := (r.take k).map (·.1)
    let rest := r.drop k
    let sc := findScale (fun c => rest.all fun v => fitsScale c (emaxOf fmt full v.2.isNeg) v.2) 252 4
    let hasNaN := !nans.isEmpty
    let sideIdx : Option Nat := if hasNaN then nans.head?.map (·.i) else if 1 ≤ k then outs.head? else none
    -- element code and flags of one column
    let enc (c : EncCol) : Nat × Nat × Half :=
      match c.v with
      | none => (c.i, 0, if some c.i = sideIdx then fNR else fCL)
      | some d =>
        if some c.i = sideIdx then (c.i, 0, 0)
        else if outs.contains c.i then
          let (a, b) := scaled d sc
          (c.i, gridCode fmt d.isNeg ((grid fmt false).length - 1), fCL ||| flagIf (decide (a ≠ (grid fmt false).getLastD 0 * b)) fNX)
        else if d.isZero then (c.i, 0, 0)
        else
          let (a, b) := scaled d sc
          let (g, ix, out) := gridRound fmt (full && d.isNeg) c.mode d.isNeg a b
          (c.i, gridCode fmt d.isNeg g, flagIf ix fNX ||| flagIf out fCL ||| flagIf (decide (g = 0) && decide (sc = 4)) fUF)
    let es := cs.map enc
    let code (i : Nat) : Nat := match es.find? fun e => e.1 = i with | some e => e.2.1 | none => 0
    let fl := es.foldl (fun f e => f ||| e.2.2) 0 ||| flagIf (decide (k = 2)) fSC
    match sideIdx with
    | none => ⟨blockOf fmt code sc 0 0, fl, 0, false⟩
    | some i =>
      let side : Byte × Half :=
        if hasNaN then (f8NaR, 0)
        else match cs.find? fun c => c.i = i with
          | some ⟨_, some d, mode⟩ =>
            let (a, b) := scaled d sc
            let q := stickyQuot a b (-3)
            f8Round mode (if d.isNeg then q.neg else q)
          | _ => (0, 0)
      ⟨blockOf fmt code sc (0x80 + i) side.1, fl ||| side.2, if k = 2 then 1 else 0, true⟩

end Sys2Proof.Machine
end

