-- ==== Sys2Proof/Machine/Segments.lean ====
section
/-! DEFINITION. Segments, code tables and check values (R108 to R132). -/

namespace Sys2Proof.Machine

/-- Segment size by rate code and format (R109). -/
def segBytes (fmt rate : Nat) : Nat := if fmt = 2 then 192 - 16 * rate else 320 - 32 * rate

/-- One bit of a CRC with generator `poly` of width w, most significant bit first. -/
def crc8Bits : Nat → Nat → Nat
  | 0, c => c
  | n + 1, c => crc8Bits n (if bit c 7 then ((c <<< 1) ^^^ 0x07) % 256 else (c <<< 1) % 256)

/-- The CRC-8 of a decoded block (R124). -/
def crc8 (bs : List Byte) : Nat := bs.foldl (fun c b => crc8Bits 8 (c ^^^ b.toNat)) 0

/-- One byte of the reflected CRC-32 of IEEE 802.3. -/
def crc32Bits : Nat → Nat → Nat
  | 0, c => c
  | n + 1, c => crc32Bits n (if bit c 0 then (c >>> 1) ^^^ 0xEDB88320 else c >>> 1)

/-- The CRC-32 of IEEE 802.3 (R289). -/
def crc32 (bs : List Byte) : Nat := (bs.foldl (fun c b => crc32Bits 8 (c ^^^ b.toNat)) 0xFFFFFFFF) ^^^ 0xFFFFFFFF

/-- Reads a table record (R118): KIND and the lengths of its symbols. -/
def parseTable (r : List Byte) : CodeTable :=
  let kind := fld r 8 1
  let n := if kind = 0 then 16 else 4
  ⟨kind, (List.range n).map fun s => (fld r (s / 2) 1 >>> (4 * (s % 2))) % 16⟩

/-- Whether a table record is valid (R119). -/
def tableValid (r : List Byte) : Bool :=
  let t := parseTable r
  decide (t.kind < 2) && (t.len.all fun l => decide (l ≤ 12)) &&
    (decide (t.kind = 0) || decide (fld r 2 6 = 0)) &&
    decide (2 ≤ (t.len.filter fun l => decide (l ≠ 0)).length) &&
    decide ((t.len.foldl (fun s l => if l = 0 then s else s + 2 ^ (12 - l)) 0) = 4096)

/-- The canonical code of symbol `s` (R120): the value that `next` has after the shorter lengths and the lower symbols. -/
def canonBase (len : List Nat) : Nat → Nat
  | 0 => 0
  | l + 1 => (canonBase len l + (if l = 0 then 0 else (len.filter fun x => decide (x = l)).length)) * 2

def canonCode (len : List Nat) (s : Nat) : Nat :=
  let l := len.getD s 0
  canonBase len l + ((len.take s).filter fun x => decide (x = l)).length

/-- The bits of a block code: its bytes as one little-endian number (R114). -/
def streamBits (n p len : Nat) : Nat := (n >>> p) % 2 ^ len

/-- `len` bits from p on, first bit most significant (R114). -/
def msbBits (n : Nat) : Nat → Nat → Nat → Nat
  | _, 0, acc => acc
  | p, len + 1, acc => msbBits n (p + 1) len (2 * acc + b2n (bit n p))

/-- The symbol whose code starts at p, with its length. -/
def readSymbol (t : CodeTable) (n p : Nat) : Option (Nat × Nat) :=
  ((List.range t.len.length).find? fun s =>
    decide (t.len.getD s 0 ≠ 0) && decide (msbBits n p (t.len.getD s 0) 0 = canonCode t.len s)).map fun s => (s, t.len.getD s 0)

/-- Reads the symbols of elements i to 31, skipping `skip` (R115): their codes and the position after them. -/
def readSymbols (t : CodeTable) (n : Nat) (skip : Option Nat) : Nat → Nat → Nat → Option (List Nat × Nat)
  | 0, _, p => some ([], p)
  | k + 1, i, p =>
    if skip = some i then (readSymbols t n skip k (i + 1) p).map fun r => (0 :: r.1, r.2)
    else match readSymbol t n p with
      | none => none
      | some (s, l) => (readSymbols t n skip k (i + 1) (p + l)).map fun r => (s :: r.1, r.2)

/-- Decodes a block code (R115, R116); none when it needs bits beyond its end or its CHECK differs (R125). -/
def decodeBlockCode (fmt : Nat) (t : CodeTable) (code : List Byte) : Option (List Byte) :=
  let n := leNat code
  let nb := 8 * code.length
  let sc := streamBits n 0 8
  if sc < 4 then
    let b := blockOf fmt (fun _ => 0) sc 0 0
    if 16 ≤ nb ∧ streamBits n 8 8 = crc8 b then some b else none
  else
    let scv := bit n 8
    let idx := streamBits n 9 5
    match readSymbols t n (if scv then some idx else none) 32 0 (if scv then 14 else 9) with
    | none => none
    | some (cs, p) =>
      let side := if scv then streamBits n p 8 else 0
      let p' := if scv then p + 8 else p
      let b := blockOf fmt (fun i => cs.getD i 0) sc (if scv then 0x80 + idx else 0) (BitVec.ofNat 8 side)
      if p' + 8 ≤ nb ∧ streamBits n p' 8 = crc8 b then some b else none

/-- How one segment reads: its blocks (none where poisoned) and its check events: 0xFF the segment, else the block number. -/
structure SegRead where
  blocks : List (Option (List Byte))
  events : List Nat
  deriving DecidableEq, Repr

/-- Reads the segment bytes `s` as 16 blocks (R110, R125). Marks name poisoned bytes (R427). -/
def readSegment (fmt rate : Nat) (tables : Table (Option CodeTable)) (s : List Byte) (marked : Nat → Bool) : SegRead :=
  if rate = 0 then
    let w := blockBytes fmt
    ⟨(List.range 16).map fun i =>
      if ((List.range w).any fun j => marked (i * w + j)) then none else some ((s.drop (i * w)).take w), []⟩
  else
    let hdr := fld s 0 4
    let size := segBytes fmt rate
    let idx := (List.range 16).map fun i => fld s (4 + i) 1
    let all : SegRead := ⟨List.replicate 16 none, [0xFF]⟩
    if ((List.range 20).any marked) then ⟨List.replicate 16 none, []⟩
    else if hdr % 8 ≠ rate then all
    else match look none tables (bits hdr 8 3) with
      | none => all
      | some t =>
        if t.kind ≠ (if fmt = 2 then 1 else 0) then all
        else if idx.getD 0 0 ≠ 10 ∨ !((List.range 15).all fun i => decide (idx.getD i 0 < idx.getD (i + 1) 0)) ∨
            (idx.any fun v => decide (size / 2 - 1 < v)) then all
        else
          let one (i : Nat) : Option (List Byte) × Bool :=
            let a := 2 * idx.getD i 0
            let z := if i = 15 then size else 2 * idx.getD (i + 1) 0
            if ((List.range (z - a)).any fun j => marked (a + j)) then (none, false)
            else match decodeBlockCode fmt t ((s.drop a).take (z - a)) with
              | some b => (some b, false)
              | none => (none, true)
          let rs := (List.range 16).map one
          ⟨rs.map (·.1), (List.range 16).filter fun i => (rs.getD i (none, false)).2⟩

/-! ### Encoder -/

/-- A block as the encoder works on it: scale, sidecar index, sidecar, element codes (zero code at the sidecar). -/
structure WorkBlock where
  scale : Nat
  sc : Option Nat
  side : Nat
  codes : List Nat
  deriving DecidableEq, Repr

/-- Takes a decoded block into the encoder (R129). -/
def workBlock (fmt : Nat) (b : List Byte) : WorkBlock :=
  let scale := blkScale fmt b
  if scale < 4 then ⟨scale, none, 0, []⟩
  else
    let tag := blkTag fmt b
    let sc := if bit tag 7 then some (tag % 32) else none
    ⟨scale, sc, if bit tag 7 then (blkSide fmt b).toNat else 0,
      (List.range 32).map fun i => if sc = some i then 0 else elemCode fmt b i⟩

/-- The decoded block that a work block stands for (R116). -/
def workBytes (fmt : Nat) (w : WorkBlock) : List Byte :=
  blockOf fmt (fun i => w.codes.getD i 0) w.scale (match w.sc with | some i => 0x80 + i | none => 0) (BitVec.ofNat 8 w.side)

/-- The coded elements of a work block: its symbols with the sidecar's skipped. -/
def WorkBlock.symbols (w : WorkBlock) : List Nat :=
  ((List.range w.codes.length).filter fun i => decide (w.sc ≠ some i)).map fun i => w.codes.getD i 0

/-- Bits of a block code; a symbol with no code counts as longer than any block (log entry 24, DEDUCED). -/
def WorkBlock.codedBits (t : CodeTable) (w : WorkBlock) : Nat :=
  if w.scale < 4 then 16
  else w.symbols.foldl (fun s c => s + (if t.len.getD c 0 = 0 then 4096 else t.len.getD c 0))
    (8 + 1 + 8 + (if w.sc.isSome then 13 else 0))

/-- Bytes of the padded block code. -/
def WorkBlock.coded (t : CodeTable) (w : WorkBlock) : Nat := 2 * cdiv (w.codedBits t) 16

/-- The block with the largest padded code, lowest number on a tie (R130). -/
def largestBlock (t : CodeTable) (ws : List WorkBlock) : Nat :=
  (List.range ws.length).foldl (fun best i =>
    if (ws.getD best ⟨0, none, 0, []⟩).coded t < (ws.getD i ⟨0, none, 0, []⟩).coded t then i else best) 0

/-- Length for comparison: no code counts as longer than any. -/
def symLen (t : CodeTable) (s : Nat) : Nat := if t.len.getD s 0 = 0 then 100 else t.len.getD s 0

/-- The source of a merge step (R130): longest code, then larger magnitude, then higher symbol. -/
def mergeSource (fmt : Nat) (t : CodeTable) (w : WorkBlock) : Nat :=
  let better (a b : Nat) : Bool :=
    decide (symLen t b < symLen t a) || (decide (symLen t b = symLen t a) &&
      ((elemDy fmt b).abs.lt (elemDy fmt a).abs || (!(elemDy fmt a).abs.lt (elemDy fmt b).abs && decide (b < a))))
  match w.symbols with
  | [] => 0
  | s :: r => r.foldl (fun best c => if better c best then c else best) s

/-- The target of a merge step (R130), none when no symbol is shorter. -/
def mergeTarget (fmt : Nat) (t : CodeTable) (src : Nat) : Option Nat :=
  let cands := (List.range t.len.length).filter fun s =>
    decide (t.len.getD s 0 ≠ 0) && decide (symLen t s < symLen t src) &&
      !((decide (fmt < 2) && decide (s = 8)) || (decide (fmt = 2) && decide (s = 2)))
  let dist (s : Nat) : Dy := ((elemDy fmt s).add (elemDy fmt src).neg).abs
  let better (a b : Nat) : Bool :=
    (dist a).lt (dist b) || (!(dist b).lt (dist a) &&
      ((elemDy fmt a).abs.lt (elemDy fmt b).abs || (!(elemDy fmt b).abs.lt (elemDy fmt a).abs && decide (a < b))))
  match cands with
  | [] => none
  | s :: r => some (r.foldl (fun best c => if better c best then c else best) s)

/-- One merge step (R130). -/
def mergeStep (fmt : Nat) (t : CodeTable) (ws : List WorkBlock) : List WorkBlock :=
  let i := largestBlock t ws
  let w := ws.getD i ⟨0, none, 0, []⟩
  let src := mergeSource fmt t w
  match mergeTarget fmt t src with
  | none => setAt ws i ⟨0, none, 0, []⟩
  | some dst =>
    let codes := (List.range w.codes.length).map fun j =>
      if decide (w.sc ≠ (some j)) && decide (w.codes.getD j 0 = src) then dst else w.codes.getD j 0
    setAt ws i { w with codes := codes }

/-- Merge steps until the sum fits; answers the blocks and how many steps were made. -/
def mergeLoop (fmt : Nat) (t : CodeTable) (budget : Nat) : Nat → List WorkBlock → Nat → List WorkBlock × Nat
  | 0, ws, k => (ws, k)
  | fuel + 1, ws, k =>
    if (ws.foldl (fun s w => s + w.coded t) 0) ≤ budget then (ws, k)
    else mergeLoop fmt t budget fuel (mergeStep fmt t ws) (k + 1)

/-- Appends `len` bits, least significant first. -/
def pushLsb (acc : Nat × Nat) (v len : Nat) : Nat × Nat := (acc.1 + (v % 2 ^ len) <<< acc.2, acc.2 + len)

/-- Appends the `len` bits of a canonical code, most significant first. -/
def pushMsb (acc : Nat × Nat) (v : Nat) : Nat → Nat × Nat
  | 0 => acc
  | len + 1 => pushMsb (pushLsb acc (b2n (bit v len)) 1) v len

/-- The padded block code of a work block (R115). -/
def emitBlock (fmt : Nat) (t : CodeTable) (w : WorkBlock) : List Byte :=
  let check := crc8 (workBytes fmt w)
  if w.scale < 4 then [BitVec.ofNat 8 w.scale, BitVec.ofNat 8 check]
  else
    let a := pushLsb (0, 0) w.scale 8
    let a := pushLsb a (b2n w.sc.isSome) 1
    let a := match w.sc with
      | some i => pushLsb a i 5
      | none => a
    let a := w.symbols.foldl (fun a s => pushMsb a (canonCode t.len s) (t.len.getD s 0)) a
    let a := if w.sc.isSome then pushLsb a w.side 8 else a
    let a := pushLsb a check 8
    toLE (2 * cdiv a.2 16) a.1

/-- Where each block code begins, in units of 2 bytes (R112). -/
def indexFrom : Nat → List (List Byte) → List Byte
  | _, [] => []
  | p, c :: r => BitVec.ofNat 8 p :: indexFrom (p + c.length / 2) r

/-- Encodes 16 decoded blocks into one segment (R129 to R131): its bytes, LOSSY, and whether ZB is set. -/
def encodeSegment (fmt rate slot : Nat) (t : CodeTable) (blocks : List (List Byte)) : List Byte × Nat × Bool :=
  let size := segBytes fmt rate
  let (ws, k) := mergeLoop fmt t (size - 20) 1024 (blocks.map (workBlock fmt)) 0
  let lossy := min k 31
  let codes := ws.map (emitBlock fmt t)
  let body := codes.foldl (· ++ ·) []
  (toLE 4 (rate + 8 * slot + 512 * lossy) ++ indexFrom 10 codes ++ body ++ zeros (size - 20 - body.length), lossy,
    blocks.any fun b => blockZB fmt b fun _ => true)

end Sys2Proof.Machine
end

