-- ==== Sys2Proof/Config.lean ====
section
/-! DEFINITION. What the manual leaves open: constants with no body, so that no proof can see their value. Each is named in a log
entry. `n` is the counter of free values (Dev.free). -/

namespace Sys2Proof.Config

/-- How far VEXP (0), VLOG (1), VRSQRT (2), VTANH (3) and VSIGM (4) lie from the correctly rounded result, within the bound of R188 and
counted from its lower end: a fixed function of the input bits, whose reference routines the manual does not give (log entry 20,
DESIGN CHOICE). -/
opaque ulps : Nat → W32 → Nat

/-- SERIAL of R372, fixed at manufacture (log entry 13, DESIGN CHOICE). -/
opaque serial : Word
/-- MAC of R372 (log entry 13, DESIGN CHOICE): any address but the broadcast one, since frames reach it unicast (R358; DEDUCED). -/
opaque macBits : BitVec 48
def mac : BitVec 48 := if macBits = 0xFFFFFFFFFFFF then 0 else macBits
/-- FW_VERSION of the firmware in flash slot 0 or 1 (R393; log entry 13, DESIGN CHOICE). -/
opaque fwVersion : Nat → W32
/-- Fused values of the meter: serial, ROM CRC, CAL_ID, calibration CRC (R404; log entry 13, DESIGN CHOICE). -/
opaque meterSerial : Word
opaque romCrcFused : W32
opaque calId : W32
opaque calCrcFused : W32
/-- The CRCs that the meter computes over its ROM and fuses at start `n` (R401; log entry 13, DESIGN CHOICE). -/
opaque romCrcNow : Nat → W32
opaque calCrcNow : Nat → W32
/-- Type-approval reference, up to 32 bytes (R404; log entry 13, DESIGN CHOICE). -/
opaque typeRef : List Byte

/-- The cache line, if any, that a cached access evicts before it proceeds: its place among the lines (log entry 17, DESIGN CHOICE). -/
opaque evict : Nat → Option Nat
/-- Energy that the activity counters attribute to context x, and to item i of R22 (64 + i), over a status record (R409; log
entry 21, DESIGN CHOICE). -/
opaque activity : Nat → Nat → Nat
/-- The KIND of the trains that carry tally operations between packages, by its place among 0x11 and 0x13 to 0x1F: the manual gives none
(R292, R321; log entry 128, DESIGN CHOICE). -/
opaque tallyKind : Nat
/-- The KIND of the trains that ask another package for bytes, by its place among the others (R279, R292, R321; log entry 47, DESIGN
CHOICE). -/
opaque readKind : Nat
/-- What start-up steps 3 to 6 find at a wake from S4: locks, self-tests, fibre powers, frames of the tier (R391, R394; log entry 154,
DESIGN CHOICE). -/
opaque wakeEnv : Nat → StartEnv
/-- A byte that the manual leaves open (log entry 22, DESIGN CHOICE). -/
opaque byte : Nat → Byte
/-- A number that the manual leaves open (log entry 22, DESIGN CHOICE). -/
opaque number : Nat → Nat

end Sys2Proof.Config
end

