-- ==== Sys2Proof/Machine/ObjDict.lean ====
section
/-! DEFINITION. The object dictionary: which objects exist, their types, access classes, defaults (R366, R367, R371 and the tables
of the defining chapters), and reading and writing a stored value. -/

namespace Sys2Proof.Machine

/-- Access classes of R367. -/
inductive Access where
  | ro
  | rw
  | wo
  | rw1c
  | wonce
  | const
  | sealed
  deriving DecidableEq, Repr

/-- Types of R366: an unsigned or signed number of bytes, a BOOL, a STR with its maximum, a DOMAIN with its length (none when the
defining chapter checks it). -/
inductive OType where
  | u (n : Nat)
  | bool
  | str (n : Nat)
  | domain (n : Option Nat)
  deriving DecidableEq, Repr

/-- Entries at sub-index 01 and on of an object with several entries, in order. -/
def objSubs (idx : Nat) : Option (List (Access × OType)) :=
  let ro (n : Nat) : Access × OType := (.ro, .u n)
  let rw (n : Nat) : Access × OType := (.rw, .u n)
  let many (n : Nat) (e : Access × OType) : Option (List (Access × OType)) := some (List.replicate n e)
  if idx = 0x1000 then some [(.const, .str 16), (.const, .str 16), (.const, .str 4), (.const, .u 8), (.const, .u 8), ro 4, ro 1, (.wonce, .str 32)]
  else if idx = 0x1100 then some [ro 1, (.rw, .bool), rw 1, rw 1, rw 1, rw 8, ro 4, ro 4, (.wo, .u 1), ro 1]
  else if idx = 0x2000 then some [ro 1, ro 2, ro 2, ro 1, ro 1, ro 2]
  else if idx = 0x2010 then some [(.rw, .bool), (.wo, .domain (some 8))]
  else if 0x2100 ≤ idx ∧ idx < 0x2104 then many 8 (ro 1)
  else if 0x2110 ≤ idx ∧ idx < 0x2130 then many 8 (ro 1)
  else if idx = 0x2140 then many 16 (ro 1)
  else if idx = 0x3000 then some [rw 1, rw 2, rw 2, rw 4, ro 1, ro 8, ro 8, ro 4]
  else if idx = 0x3001 then many 8 (ro 8)
  else if idx = 0x3010 then some [rw 2, rw 4, ro 2]
  else if idx = 0x3020 then many 64 (rw 1)
  else if idx = 0x3021 ∨ idx = 0x3022 ∨ idx = 0x3024 then many 64 (rw 8)
  else if idx = 0x3023 ∨ idx = 0x3025 then many 64 (rw 4)
  else if idx = 0x3026 then many 64 (.rw1c, .u 2)
  else if idx = 0x3027 then many 64 (rw 2)
  else if idx = 0x3028 then many 64 (ro 4)
  else if idx = 0x3030 then many 2 (rw 1)
  else if idx = 0x3050 then some [rw 1, ro 1, ro 8, ro 1, ro 2, ro 4, (.wo, .u 8)]
  else if 0x3100 ≤ idx ∧ idx < 0x3114 then
    some [ro 1, ro 4, ro 8, ro 8, ro 8, ro 8, ro 4, ro 4, ro 4, ro 8, ro 8, ro 8, ro 4, (.wo, .u 1)]
  else if idx = 0x4001 then many 4 (ro 4)
  else if idx = 0x4010 ∨ idx = 0x4011 then many 32 (rw 1)
  else if idx = 0x4020 then some [ro 2, ro 1, ro 1, ro 4, rw 1]
  else if idx = 0x4040 ∨ idx = 0x4041 then many 64 (rw 8)
  else if idx = 0x4071 then many 64 (ro 4)
  else if idx = 0x4072 then many 64 (ro 8)
  else if idx = 0x4073 then many 64 (.rw, .bool)
  else if 0x5000 ≤ idx ∧ idx < 0x5400 ∧ idx % 16 = 0 then
    some [rw 4, rw 4, rw 4, rw 4, rw 4, rw 1, rw 8, (.rw, .bool), rw 4, rw 1, ro 8, ro 4, ro 4, ro 4, ro 4]
  else if idx = 0x6000 then some [ro 1, rw 1, ro 4, ro 1]
  else if idx = 0x6011 then many 64 (rw 1)
  else if idx = 0x6020 then many 4 (rw 1)
  else if idx = 0x6021 then many 4 (ro 1)
  else if idx = 0x6022 then many 4 (ro 4)
  else if idx = 0x6030 then many 13 (ro 4)
  else if idx = 0x6031 then some [rw 1, rw 1, (.const, .u 1), (.const, .u 1), (.const, .u 1)]
  else if idx = 0x6038 then many 65 (ro 8)
  else if idx = 0x6039 then many 8 (ro 8)
  else if idx = 0x603F then some [ro 1, ro 4]
  else if idx = 0x6040 then some [(.rw, .bool), (.rw, .bool), ro 8, ro 4]
  else if idx = 0x7001 then many 10 (rw 1)
  else if idx = 0x7002 ∨ idx = 0x7003 then many 6 (rw 1)
  else if idx = 0x7004 then many 2 (rw 1)
  else if idx = 0x7010 then many 4 (rw 2)
  else if idx = 0x7020 then many 4 (ro 4)
  else if idx = 0x7021 then many 32 (.rw1c, .u 4)
  else if 0x7030 ≤ idx ∧ idx < 0x7034 then some [ro 8, ro 8, ro 8, ro 8, ro 4, ro 4, ro 4, ro 4, ro 8]
  else if idx = 0x8000 then some [ro 4, ro 4, rw 2, (.ro, .domain (some 256)), (.wo, .u 1)]
  else if idx = 0x8001 then some [ro 4, ro 4, rw 2, (.ro, .domain (some 256))]
  else if idx = 0x8010 then many 8 (ro 8)
  else if idx = 0x8020 then many 64 (rw 2)
  else if idx = 0x8021 then many 64 (.rw, .domain (some 16))
  else if idx = 0x9000 then
    some [(.sealed, .u 8), (.sealed, .str 16), (.sealed, .u 4), (.sealed, .u 4), (.sealed, .u 4), (.sealed, .u 1), (.sealed, .u 4),
      (.sealed, .str 32), (.sealed, .u 4)]
  else if idx = 0x9010 then some [(.sealed, .u 8), (.sealed, .u 4), (.sealed, .u 8), (.sealed, .u 4), (.sealed, .u 1)]
  else if idx = 0x9100 then some [(.sealed, .u 4), (.sealed, .domain (some 16384))]
  else if idx = 0xA000 then some [ro 4, ro 4, (.ro, .domain none)]
  else none

/-- Objects with a single value at sub-index 00 (R367). -/
def objSingle (idx : Nat) : Option (Access × OType) :=
  if idx = 0x2130 then some (.ro, .domain (some 2048))
  else if idx = 0x3060 then some (.wo, .domain none)
  else if idx = 0x3061 then some (.rw, .u 2)
  else if idx = 0x3062 then some (.ro, .domain (some 128))
  else if idx = 0x4060 then some (.wo, .domain (some 32))
  else if idx = 0x4070 then some (.wo, .domain (some 64))
  else if idx = 0x6010 then some (.rw, .u 4)
  else if idx = 0x70FD then some (.ro, .bool)
  else if idx = 0x70FE then some (.ro, .u 4)
  else if idx = 0x70FF then some (.wo, .u 1)
  else none

/-- Access class and type of an object entry; none answers 0x0101 (R370, R371). -/
def objEntry (idx sub : Nat) : Option (Access × OType) :=
  match objSingle idx with
  | some e => if sub = 0 then some e else none
  | none => match objSubs idx with
    | none => none
    | some l => if sub = 0 then some (.ro, .u 1) else l[sub - 1]?

/-- Size of a value in bytes, 0 where it varies. -/
def OType.size : OType → Nat
  | .u n => n
  | .bool => 1
  | .str _ => 0
  | .domain n => n.getD 0

/-- The key of an object entry in the stored table. -/
def okey (idx sub : Nat) : Nat := idx * 256 + sub

/-- Defaults of the stored objects that are not 0. -/
def objDefault (key : Nat) : Nat :=
  let idx := key / 256
  let sub := key % 256
  if idx = 0x1100 then (match sub with
    | 2 => 1
    | 3 => 32
    | 4 => 32
    | 6 => 0xFFFFFFFFFFFF
    | _ => 0)
  else if idx = 0x3000 then (if sub = 2 then 1 else 0)
  else if idx = 0x3010 then (if sub = 2 then 1000000 else 0)
  else if idx = 0x3027 then 4096
  else if idx = 0x3030 then sub
  else if idx = 0x4020 then (if sub = 5 then 16 else 0)
  else if 0x5000 ≤ idx ∧ idx < 0x5400 then (match sub with
    | 3 => 0xFFFFFFFF
    | 4 => 0xFFFFFFFF
    | 5 => 0xFFFFFFFF
    | 6 => 1
    | 10 => 8
    | _ => 0)
  else if idx = 0x6000 then (if sub = 2 then 4 else 0)
  else if idx = 0x6011 then 4
  else if idx = 0x6031 then [0, 95, 90, 110, 105, 30].getD sub 0
  else if idx = 0x7001 then (if sub ≤ 5 then 2 else 1)
  else if idx = 0x7002 then [0, 1, 2, 1, 3, 0, 2].getD sub 0
  else if idx = 0x7003 then [0, 1, 3, 1, 2, 0, 3].getD sub 0
  else if idx = 0x7004 then 3
  else if idx = 0x7010 then 4096
  else if idx = 0x8020 then 0xFFFF
  else if idx = 0x8021 then 2 ^ 128 - 1
  else 0

/-- The stored value of an object. -/
def og (d : Dev) (idx sub : Nat) : Nat := look (objDefault (okey idx sub)) d.obj (okey idx sub)

/-- Stores a value of an object. -/
def oset (d : Dev) (idx sub v : Nat) : Dev := { d with obj := put (objDefault (okey idx sub)) d.obj (okey idx sub) v }

/-- Adds to a counter of `w` bits that saturates. -/
def obump (d : Dev) (w idx sub n : Nat) : Dev := oset d idx sub (satAdd w (og d idx sub) n)

/-- The shadowed objects: class and limit objects of R170, and the ring class of a context (R172). -/
def isShadowed (idx sub : Nat) : Bool :=
  (decide (0x7001 ≤ idx) && decide (idx ≤ 0x7004)) || decide (idx = 0x7010) ||
    (decide (0x5000 ≤ idx) && decide (idx < 0x5400) && decide (idx % 16 = 0) && decide (sub = 6))

/-- Every key of a shadowed object. -/
def shadowKeys : List Nat :=
  (List.range 10).map (fun i => okey 0x7001 (i + 1)) ++ (List.range 6).map (fun i => okey 0x7002 (i + 1)) ++
    (List.range 6).map (fun i => okey 0x7003 (i + 1)) ++ (List.range 2).map (fun i => okey 0x7004 (i + 1)) ++
    (List.range 4).map (fun i => okey 0x7010 (i + 1)) ++ (List.range 64).map (fun x => okey (0x5000 + 16 * x) 6)

/-- The live value of a shadowed object (R173). -/
def live (d : Dev) (idx sub : Nat) : Nat := look (objDefault (okey idx sub)) d.live (okey idx sub)

/-- Objects that NV_STORE copies (R374). -/
def storable (idx sub : Nat) : Bool :=
  (decide (idx = 0x1100) && decide (2 ≤ sub) && decide (sub ≤ 6)) || (decide (idx = 0x3010) && decide (sub = 2)) ||
    decide (idx = 0x4010) || decide (idx = 0x4011) || (decide (0x6000 ≤ idx) && decide (idx ≤ 0x6040) &&
      (match objEntry idx sub with | some (.rw, _) => true | _ => false)) ||
    (decide (0x7001 ≤ idx) && decide (idx ≤ 0x7010))

/-- The value of a context's object 0x5000 + 0x10·ctx.sub. -/
def cobj (d : Dev) (x sub : Nat) : Nat := og d (0x5000 + 16 * x) sub
/-- Stores it. -/
def cobjSet (d : Dev) (x sub v : Nat) : Dev := oset d (0x5000 + 16 * x) sub v

end Sys2Proof.Machine
end

