-- ==== Sys2Proof/Machine/Ops.lean ====
section
/-! DEFINITION. Access to the parts of the block, the key space of its memories, logs, windfalls and freeze (R331 to R340). -/

namespace Sys2Proof.Machine

/-! ### Parts -/

def coreOf (d : Dev) (c : Nat) : Core := look Core.reset d.cores c
def coreSet (d : Dev) (c : Nat) (v : Core) : Dev := { d with cores := put Core.reset d.cores c v }
def coreUpd (d : Dev) (c : Nat) (f : Core → Core) : Dev := coreSet d c (f (coreOf d c))
def clusterOf (d : Dev) (cl : Nat) : Cluster := look Cluster.reset d.clusters cl
def clusterSet (d : Dev) (cl : Nat) (v : Cluster) : Dev := { d with clusters := put Cluster.reset d.clusters cl v }
def clusterUpd (d : Dev) (cl : Nat) (f : Cluster → Cluster) : Dev := clusterSet d cl (f (clusterOf d cl))
def ctxOf (d : Dev) (x : Nat) : Ctx := look Ctx.reset d.ctxs x
def ctxSet (d : Dev) (x : Nat) (v : Ctx) : Dev := { d with ctxs := put Ctx.reset d.ctxs x v }
def ctxUpd (d : Dev) (x : Nat) (f : Ctx → Ctx) : Dev := ctxSet d x (f (ctxOf d x))
def linkOf (d : Dev) (l : Nat) : Link := look Link.reset d.links l
def linkSet (d : Dev) (l : Nat) (v : Link) : Dev := { d with links := put Link.reset d.links l v }
def linkUpd (d : Dev) (l : Nat) (f : Link → Link) : Dev := linkSet d l (f (linkOf d l))
def portOf (d : Dev) (p : Nat) : Port := look Port.reset d.ports p
def portSet (d : Dev) (p : Nat) (v : Port) : Dev := { d with ports := put Port.reset d.ports p v }
def portUpd (d : Dev) (p : Nat) (f : Port → Port) : Dev := portSet d p (f (portOf d p))
def sqOf (d : Dev) (x : Nat) : Sq := look Sq.reset d.host.sqs x
def sqSet (d : Dev) (x : Nat) (v : Sq) : Dev := { d with host := { d.host with sqs := put Sq.reset d.host.sqs x v } }
def sqUpd (d : Dev) (x : Nat) (f : Sq → Sq) : Dev := sqSet d x (f (sqOf d x))

/-- Sends something out of the package. Log entry 130, DESIGN CHOICE. -/
def emit (d : Dev) (o : OutItem) : Dev := { d with out := d.out ++ [o] }

/-- Draws the number of the next free value (log entry 2, DESIGN CHOICE). -/
def draw (d : Dev) : Nat × Dev := (d.free, { d with free := d.free + 1 })

/-- `n` bytes that the manual leaves open, from the free values at `k` on (log entry 22, DESIGN CHOICE). -/
def openBytes (k n : Nat) : List Byte := (List.range n).map fun i => Config.byte (k + i)

/-- The cluster of a core (R11). -/
def clOf (c : Nat) : Nat := c / 8

/-- CLUSTER_MASK of a context, and whether it holds clusters (R263). -/
def maskOf (d : Dev) (x : Nat) : Nat := cobj d x 2
def holds (d : Dev) (x cl : Nat) : Bool :=
  bit (maskOf d x) cl && (match (ctxOf d x).state with | .free => false | .harvested => false | _ => !(ctxOf d x).bare)
/-- The clusters of its mask that a context holds: all or none. -/
def heldMask (d : Dev) (x : Nat) : Nat :=
  match (ctxOf d x).state with | .free => 0 | .harvested => 0 | _ => if (ctxOf d x).bare then 0 else maskOf d x
def holdsAny (d : Dev) (x : Nat) : Bool := (List.range 32).any (holds d x)

/-- The context that holds a cluster. -/
def holder (d : Dev) (cl : Nat) : Option Nat := (List.range 64).find? fun x => holds d x cl

/-- Clusters of a mask, in increasing number. -/
def clustersIn (mask : Nat) : List Nat := (List.range 32).filter fun cl => bit mask cl

/-- Cores of the clusters of a mask. -/
def coresIn (mask : Nat) : List Nat := (clustersIn mask).flatMap fun cl => (List.range 8).map fun i => 8 * cl + i

/-! ### One key space for all memories -/

def spKey (c a : Nat) : Nat := c * 2 ^ 23 + a
def shKey (cl a : Nat) : Nat := 2 ^ 32 + cl * 2 ^ 24 + a
def hbmKey (a : Nat) : Nat := 2 ^ 40 + a
def tierKey (a : Nat) : Nat := 2 ^ 44 + a
def hostKey (a : Nat) : Nat := 2 ^ 66 + a

/-! Keys of the SRAMs that no address reaches (R156, R330): they carry marks and hold their contents in other fields. -/

/-- A line of a core data cache and of a cluster cache. -/
def dcKey (c line : Nat) : Nat := 2 ^ 80 + (c * 2 ^ 46 + line) * 64
def ccKey (cl line : Nat) : Nat := 2 ^ 81 + (cl * 2 ^ 46 + line) * 64
/-- Decoded element `i` of a weight tile buffer, one key each (log entry 146, DESIGN CHOICE). -/
def tileKey (c g : Nat) (buf : Bool) (i : Nat) : Nat := 2 ^ 82 + ((c * 4 + g) * 2 + b2n buf) * 2 ^ 16 + i
/-- The 2 KiB input queue of an engine's A decoder (R133). -/
def decoderKey (c g : Nat) : Nat := 2 ^ 83 + (c * 4 + g) * 2048
/-- The 16-byte record of a region. -/
def recordKey (cl key : Nat) : Nat := 2 ^ 84 + (cl * 512 + key) * 16
/-- The hub's SRAM. -/
def hubKey (a : Nat) : Nat := 2 ^ 85 + a

/-- Whether a key lies in SRAM of a compute die, in SRAM of the hub, in HBM, or elsewhere. -/
def isHub (k : Nat) : Bool := decide (2 ^ 85 ≤ k)
def isSram (k : Nat) : Bool := decide (k < 2 ^ 40) || (decide (2 ^ 80 ≤ k) && decide (k < 2 ^ 85))
def isHbm (k : Nat) : Bool := decide (2 ^ 40 ≤ k) && decide (k < 2 ^ 44)

/-- Sets memory and its ECC marks to zero. -/
def zeroRange (d : Dev) (k n : Nat) : Dev :=
  { d with mem := zeroMem d.mem k n, poison := clearMarks d.poison (k / 8) (n / 8), upset := clearMarks d.upset (k / 8) (n / 8) }

/-! ### Logs and interrupts -/

/-- Whether an MSI-X message can leave: entry and function unmasked, Bus Master Enable set (R345, R356). -/
def msixCan (d : Dev) (vec : Nat) : Bool := look false d.host.msixOpen vec && !d.host.funcMask && d.host.busMaster

/-- Sends the message of a vector. -/
def msixSend (d : Dev) (vec : Nat) : Dev := emit d (.msix vec (look 0 d.host.msixAddr vec) (look 0 d.host.msixData vec))

/-- Signals an MSI-X vector; while it cannot leave, its pending bit holds it. -/
def signalMsix (d : Dev) (vec : Nat) : Dev :=
  if msixCan d vec then msixSend d vec else { d with host := { d.host with msixPend := put false d.host.msixPend vec true } }

/-- Scopes of a windfall (R331). -/
def sNone : Nat := 0
def sCtx : Nat := 1
def sRing : Nat := 2
def sPackage : Nat := 3

/-- The windfall record (R331) as one 128-bit number, byte 0 lowest. -/
def wfRecord (code scope : Nat) (relayed : Bool) (ctx : Nat) (path : Nat) (time : Word) : BitVec 128 :=
  BitVec.ofNat 128 (code + (scope + if relayed then 128 else 0) * 2 ^ 16 + (ctx % 256) * 2 ^ 24 + path * 2 ^ 32 + time.toNat * 2 ^ 64)

/-- PATH of a unit (R331, R332): the package's orchard index, part and unit. -/
def pathOf (d : Dev) (part unit : Nat) : Nat := og d 0x3010 1 * 2 ^ 18 + part * 2 ^ 15 + unit

/-- The physical cluster and core that serve a logical core (R342). Log entry 9, DESIGN CHOICE. -/
def physCluster (d : Dev) (cl : Nat) : Nat := look (cl % 8) d.graft.clusters cl
def physCore (d : Dev) (c : Nat) : Nat := look (c % 8) d.graft.cores c
def physOptic (d : Dev) (e : Nat) : Nat := look (5 * (e / 4) + e % 4) d.graft.optics e

/-- PATH of a block of a core, of a cluster, of a die (R332). -/
def corePath (d : Dev) (c engine block : Nat) : Nat :=
  pathOf d (c / 64) (physCluster d (c / 8) * 2 ^ 11 + physCore d c * 2 ^ 7 + engine * 32 + block)
def clusterPath (d : Dev) (cl block : Nat) : Nat := pathOf d (cl / 8) (physCluster d cl * 2 ^ 11 + 15 * 2 ^ 7 + block)
def diePath (d : Dev) (die block : Nat) : Nat := pathOf d die (15 * 2 ^ 11 + 15 * 2 ^ 7 + block)
def hubPath (d : Dev) (engine lane block : Nat) : Nat := pathOf d 4 (engine * 2 ^ 10 + lane * 32 + block)

/-- The pseudo-channel of an HBM physical address (R252). -/
def pseudoChannel (pa salt : Nat) : Nat :=
  let g := pa / 256
  let u := g / 512
  let h := (u * (2 * salt + 1)) % 2 ^ 27
  (g ^^^ h ^^^ (h >>> 9) ^^^ (h >>> 18)) % 512

/-- PATH of an HBM address (R332): stack and pseudo-channel within it. -/
def hbmPath (d : Dev) (pa salt : Nat) : Nat :=
  let c := pseudoChannel pa salt
  pathOf d 5 ((c / 64) * 2 ^ 12 + (c % 64) * 64 + 28)

/-- Enters a windfall in its log and tells the host and the management segment (R336 steps 1 and 3, R340, R356, R378).
Log entry 73, DEDUCED. -/
def logWindfall (d : Dev) (wfr : BitVec 128) : Dev :=
  let (l, lost) := logPush 1024 d.faults.wf [wfr]
  let code := wfr.toNat % 2 ^ 16
  let scope := (wfr.toNat / 2 ^ 16) % 4
  let d := obump (obump d 32 0x8000 1 1) 32 0x8000 2 lost
  let d := if (0x20 ≤ code ∧ code ≤ 0x26) ∨ (code = 0x10 ∧ scope = 2) then obump d 32 0x3000 8 1 else d
  let total := og d 0x8000 1
  let fs : Faults :=
    { d.faults with
      wf := l
      unack := d.faults.unack || decide (scope ≠ 0)
      unackPkg := d.faults.unackPkg || decide (scope = 3)
      events := d.faults.events ++ [(wfr, BitVec.ofNat 16 total)] }
  let d := { d with faults := fs, host := { d.host with wfSeen := BitVec.ofNat 32 total } }
  if bit d.host.wfIrq.toNat 0 then signalMsix d 129 else d

/-- Enters entries in the correctable log (R340, R431); a pair whose first entry is overwritten loses its second. -/
def ceePush (d : Dev) (new : List (BitVec 128)) : Dev :=
  let (l, lost) := logPush 1024 d.faults.ce new
  let (l, lost) := match l with
    | h :: r => if h.toNat % 2 ^ 16 = 0x0105 ∧ 0 < lost then (r, lost + 1) else (l, lost)
    | [] => (l, lost)
  let d := obump (obump d 32 0x8001 1 new.length) 32 0x8001 2 lost
  { d with faults := { d.faults with ce := l } }

/-- Ticks of orchard time in 1 ms (R324). -/
def msTicks : Nat := 800000

/-- Counts a correctable event and logs it; it shares the newest entry of the same CODE and PATH less than 1 ms old (R340). -/
def correctable (d : Dev) (code ctx path : Nat) : Dev :=
  let d := obump d 64 0x8010 (if code = 0x0101 then 1 else 3) 1
  let wfr := wfRecord code 0 false ctx path d.otime.count
  match d.faults.ce.getLast? with
  | some e =>
    if e.toNat % 2 ^ 16 = code ∧ (e.toNat / 2 ^ 32) % 2 ^ 32 = path % 2 ^ 32 ∧
        d.otime.count.toNat - e.toNat / 2 ^ 64 < msTicks then d
    else ceePush d [wfr]
  | none => ceePush d [wfr]

/-- Logs a BLOCK_CHECK or SEGMENT_CHECK as a pair of entries (R127, R431). -/
def checkEvent (d : Dev) (ctx path block : Nat) (addr : Word) : Dev :=
  let seg := decide (block = 0xFF)
  let code := if seg then 0x0104 else 0x0103
  let d := obump d 64 0x8010 (if seg then 6 else 5) 1
  ceePush d [wfRecord code 0 false ctx path d.otime.count,
    BitVec.ofNat 128 (0x0105 + block * 2 ^ 16 + (ctx % 256) * 2 ^ 24 + addr.toNat * 2 ^ 64)]

/-! ### The endpoint and power states -/

/-- Whether the host reaches the package: PERST_N is deasserted and configuration requests are answered (R345, R394). -/
def hostUp (d : Dev) : Bool := d.host.linkUp && d.host.answers

/-- The power state that a wake has to leave: the one being entered, else the present one (R389 to R391). -/
def sleep (d : Dev) : Nat := d.power.entering.getD d.power.state

/-- An event starts a wake from any state but S0; one wake runs at a time (R391, R392). -/
def wakeBy (d : Dev) (cause : Nat) : Dev :=
  if sleep d = 0 ∨ d.power.waking then d
  else obump { oset d 0x6000 4 cause with power := { d.power with waking := true } } 32 0x6000 3 1

/-! ### Flagged requesters (R168, R170, R171) -/

/-- The value of a flagged-list entry for a requester, without its context (R170). -/
def flagKey (site die inst req : Nat) : Nat := site + 16 * die + 128 * inst + 65536 * req

/-- Whether a requester is flagged: by an entry of the list, or with no entry (R168, R171). Log entry 15, DESIGN CHOICE. -/
def flagged (d : Dev) (site die inst req : Nat) : Bool :=
  let hit (v : Nat) : Bool := bit v 31 && decide (v % 2 ^ 21 = flagKey site die inst req)
  ((List.range 32).any fun i => hit (og d 0x7021 (i + 1))) || d.arb.unlisted.any hit

/-- Whether a requester of core `c` is flagged at its banks. Log entry 85, DEDUCED. -/
def bankFlagged (d : Dev) (c req : Nat) : Bool := flagged d 0 (c / 64) (16 * (c / 8 % 8) + c % 8) req

/-- Whether a requester of cluster `cl`, or of core `c` alone, is flagged at its die's fabric ports. -/
def fabricFlagged (d : Dev) (cl req : Nat) : Bool := (List.range 16).any fun i => flagged d 1 (cl / 8) (16 * (cl % 8) + i) req
def fabricFlaggedAt (d : Dev) (c req : Nat) : Bool := flagged d 1 (c / 64) (16 * (c / 8 % 8) + c % 8) req

/-- Whether any requester is flagged. -/
def anyFlag (d : Dev) : Bool := ((List.range 32).any fun i => bit (og d 0x7021 (i + 1)) 31) || !d.arb.unlisted.isEmpty

/-- Whether some flag satisfies a condition on its value. -/
def flagWhere (d : Dev) (p : Nat → Bool) : Bool :=
  ((List.range 32).any fun i => bit (og d 0x7021 (i + 1)) 31 && p (og d 0x7021 (i + 1))) || d.arb.unlisted.any p

/-- Whether a requester of the hub is flagged at its fabric ports, and whether one of a context is at a ring egress (R170). Log entry 85,
DEDUCED. -/
def hubFlagged (d : Dev) (req : Nat) : Bool := flagWhere d fun v => decide (v % 128 = 65) && decide (bits v 20 16 = req)
def egressCtxFlagged (d : Dev) (dir x : Nat) : Bool :=
  flagWhere d fun v => decide (v % 2 ^ 21 = flagKey 3 4 dir 6) && decide (bits v 26 21 = x)

/-- Whether a requester is flagged at the queue of a pseudo-channel, whatever the entry's die, or at any queue of HBM. Log entry 85, DEDUCED. -/
def hbmFlagged (d : Dev) (ch req : Nat) : Bool := (List.range 8).any fun die => flagged d 2 die ch req
def hbmAnyFlagged (d : Dev) (req : Nat) : Bool := flagWhere d fun v => decide (v % 16 = 2) && decide (bits v 20 16 = req)

/-! ### Routing and trains -/

/-- Links of a port code (R309): the four engines of a ring bond, or one link. -/
def portLinks (code : Nat) : List Nat :=
  if code = 1 then [0, 1, 2, 3]
  else if code = 2 then [4, 5, 6, 7]
  else if 3 ≤ code ∧ code ≤ 13 then [code + 5]
  else []

/-- The port that carries a ring direction, 0 east or 1 west: its own bond, or the punnet port of a route-around (R343). -/
def ringPort (d : Dev) (dir : Nat) : Nat := og d 0x3030 (dir + 1)

/-- The port code of a link (R309). -/
def portOfLink (l : Nat) : Nat := if l < 4 then 1 else if l < 8 then 2 else l - 5

/-- A port carries traffic when every member link is ACTIVE and not MISWIRED (R284, R323). -/
def portUp (d : Dev) (code : Nat) : Bool :=
  !(portLinks code).isEmpty && (portLinks code).all fun l => decide ((linkOf d l).state = .active)

/-- The routing entry of an orchard index; 0x00FF leads nowhere (R322). -/
def routeOf (d : Dev) (dest : Nat) : Nat := (look (0x00FF : Half) d.routes dest).toNat

/-- Cuts train bytes into flit payloads of 248 bytes, the last one shorter (R289). -/
def cutFlits : Nat → List Byte → List (List Byte)
  | 0, _ => []
  | n + 1, bs => if bs.length ≤ 248 then [bs] else bs.take 248 :: cutFlits n (bs.drop 248)

/-- A whole train for egress: VC, context, its part of VC 2, and its bytes. -/
def newTrain (vc ctx cls : Nat) (bytes : List Byte) : EgTrain :=
  { id := 0, vc := vc, ctx := ctx, cls := cls, stream := none, forwarded := false, chunks := cutFlits (bytes.length / 248 + 1) bytes,
    tail := [], more := false, head := bytes.take 64, own := none, link := none, msg := none }

/-- Queues a train at the egress of a port, ahead of all others when it is freeze traffic (R166, R336). -/
def queueTrain (d : Dev) (code : Nat) (t : EgTrain) : Dev :=
  portUpd d code fun p =>
    let t := { t with id := p.nextId }
    { p with nextId := p.nextId + 1, egress := if t.vc = 2 ∧ t.cls = 3 then t :: p.egress else p.egress ++ [t] }

/-- Replaces one byte of a header. -/
def setByte (bs : List Byte) (i v : Nat) : List Byte := setAt bs i (BitVec.ofNat 8 v)

/-- The port on which a routed train leaves toward DEST, none when it is lost: no port serves, or it would leave with RHOPS at 16 (R323). -/
def routePort (d : Dev) (train : List Byte) : Option Nat :=
  let e := routeOf d (fld train 4 2)
  if 15 ≤ fld train 8 1 then none
  else if portUp d (e % 16) then some (e % 16)
  else if portUp d (e / 16 % 16) then some (e / 16 % 16)
  else none

/-- The freeze message of a windfall for a context (R336): one flit of KIND 0x12. -/
def freezeTrain (d : Dev) (dest x : Nat) (wfr : BitVec 128) : List Byte :=
  [0x12, 0, 0, 0] ++ toLE 2 dest ++ toLE 2 (og d 0x3010 1) ++ [0, BitVec.ofNat 8 x] ++ zeros 6 ++ toLE 16 wfr.toNat ++ zeros 32

/-- Sends one freeze message; one that cannot leave is a ROUTE_LOST of the context that is being frozen (R323, R336). -/
def sendFreeze (d : Dev) (dest x : Nat) (wfr : BitVec 128) : Dev :=
  let t := freezeTrain d dest x wfr
  match routePort d t with
  | some p => queueTrain d p (newTrain 2 x 3 (setByte t 8 1))
  | none => logWindfall d (wfRecord 0x0014 sCtx false x (hubPath d 31 31 20) d.otime.count)

/-- The freeze tree of a context: parent and children, 0xFFFF unused (R335). -/
def freezePeers (d : Dev) (x : Nat) : List Nat :=
  (og d 0x8020 (x + 1) :: (List.range 8).map fun i => bits (og d 0x8021 (x + 1)) (16 * i + 15) (16 * i)).filter fun p => decide (p ≠ 0xFFFF)

/-- Holds every core of the clusters of a mask at its instruction boundary. -/
def holdCores (d : Dev) (mask : Nat) (h : Bool) : Dev :=
  (coresIn mask).foldl (fun d c => if (coreOf d c).inst.isSome then coreUpd d c fun k => { k with held := h } else d) d

/-- Holds or lets go the DMA descriptors of the clusters of a mask. -/
def holdDma (d : Dev) (mask : Nat) (h : Bool) : Dev :=
  (clustersIn mask).foldl (fun d cl => clusterUpd d cl fun k =>
    { k with dma := k.dma.map fun e => (e.1, e.2.map fun s => { s with held := h }) }) d

/-- Whether a train being received is one of a context's, and whether one at egress is, in a ring VC. -/
def rxMine (x : Nat) (r : RxTrain) : Bool := decide (r.ctx = x) && !r.discard
def egressMine (x : Nat) (t : EgTrain) : Bool := decide (t.ctx = x) && decide (t.vc < 2)

/-- Discards the received trains of a context: one whose last flit has come is gone, another's later flits are dropped (R293). -/
def dropReceived (x : Nat) (l : Table (List RxTrain)) : Table (List RxTrain) :=
  (l.map fun r => (r.1, (r.2.filter fun t => !(decide (t.ctx = x) && t.finished)).map fun t =>
    if t.ctx = x then { t with discard := true, payload := [], goesOn := none } else t)).filter fun r => !r.2.isEmpty

/-- Discards the trains of a context that the package still holds; answers whether there were any (R305, R337). -/
def dropTrains (d : Dev) (x : Nat) : Dev × Bool :=
  let any := d.ports.any fun e => e.2.egress.any (egressMine x) || e.2.rxs.any fun r => r.2.any (rxMine x)
  let clean (p : Port) : Port := { p with
    egress := p.egress.filter fun t => !egressMine x t,
    rxs := dropReceived x p.rxs }
  ({ d with ports := d.ports.map fun e => (e.1, clean e.2) }, any)

/-- Withdraws the unanswered page faults of a context (R270): later replies to them are stale. -/
def withdrawFaults (d : Dev) (x : Nat) : Dev :=
  sqUpd (ctxUpd d x fun k => { k with faults := [] }) x fun q => { q with fqWait := [] }

/-- The local freeze of a context (R337, R270, R280). -/
def freezeLocal (d : Dev) (x : Nat) : Dev :=
  let d := obump d 64 0x8010 7 1
  let bare := decide (heldMask d x = 0)
  let d := holdDma (holdCores d (heldMask d x) true) (heldMask d x) true
  let d := (dropTrains (withdrawFaults d x) x).1
  ctxUpd d x fun k => { k with
    state := .frozen, freezing := true, forwarded := true, bare := bare, hkind := 0, harvesting := false, ending := false,
    east := { k.east with on := false }, west := { k.west with on := false },
    load := if k.load.state = 1 then { k.load with state := 3, reason := 2 } else k.load }

/-- Whether a freeze acts on a context: ctx 0 is never frozen, a FROZEN one is frozen once, and a FREE one only when it is bound to the ring
(R334, R336). Log entry 72, DEDUCED. -/
def canFreeze (d : Dev) (x : Nat) : Bool :=
  decide (x ≠ 0) && (match (ctxOf d x).state with | .free => decide (og d 0x3020 (x + 1) = 1) | .frozen => false | _ => true)

/-- Steps 2 and 4 of R336 for one context: messages to the tree except where it came from, then the local freeze. -/
def freezeCtx (d : Dev) (wfr : BitVec 128) (from_ : Option Nat) (x : Nat) : Dev :=
  if canFreeze d x then
    freezeLocal (((freezePeers d x).filter fun p => decide (some p ≠ from_)).foldl (fun d p => sendFreeze d p x wfr) d) x
  else d

/-- The contexts that a windfall freezes (R334). -/
def frozenBy (d : Dev) (scope ctx : Nat) : List Nat :=
  (List.range 64).filter fun x =>
    match scope with
    | 1 => decide (x = ctx)
    | 2 => decide (og d 0x3020 (x + 1) = 1)
    | 3 => holdsAny d x || decide (og d 0x3020 (x + 1) = 1)
    | _ => false

/-- Raises a windfall: log, freeze messages, event, local freezes (R336). `ctx` 0xFF charges none. -/
def windfall (d : Dev) (code scope ctx path : Nat) : Dev :=
  let wfr := wfRecord code scope false ctx path d.otime.count
  let d := logWindfall d wfr
  (frozenBy d scope ctx).foldl (fun d x => freezeCtx d wfr none x) d

/-- FAULT_N is driven low while a windfall of scope other than NONE is unacknowledged (R340). -/
def faultNLow (d : Dev) : Bool := d.faults.unack

/-- AUX_SIG is driven low as an alarm while ALARM_EN is 1 and a PACKAGE windfall is unacknowledged (R375). -/
def auxLow (d : Dev) : Bool := decide (og d 0x6040 2 = 1) && d.faults.unackPkg

/-- THERM_N is driven low while any monitor stays at or above its trip limit (R388). -/
def thermNLow (d : Dev) : Bool := d.faults.thermLow

end Sys2Proof.Machine
end

