-- ==== Sys2Proof/Machine/Access.lean ====
section
/-! DEFINITION. Reaching memory: core-local addresses (R137, R151), ECC marks (R156, R427), device virtual addresses and page
faults (R245, R249, R258), and the cluster cache (R154). -/

namespace Sys2Proof.Machine

/-! ### Addresses -/

/-- Where an address operand points (R178). -/
inductive Place where
  | loc (a : Nat)
  | va (a : Nat)
  deriving DecidableEq, Repr

/-- An address operand (R178); none is BAD_ADDRESS. Log entry 71, DEDUCED. -/
def placeOf (v : Word) : Option Place :=
  if v.toNat < 2 ^ 32 then some (.loc v.toNat)
  else if 2 ^ 63 ≤ v.toNat ∧ v.toNat - 2 ^ 63 < 2 ^ 52 then some (.va (v.toNat - 2 ^ 63))
  else none

/-- Bytes of the scratchpad part of a cluster's shared memory (R151). -/
def sharedSize (d : Dev) (cl : Nat) : Nat := (16 - 4 * og d 0x4010 (cl + 1) - 2 * og d 0x4011 (cl + 1)) * 2 ^ 20

/-- The key of `n` bytes at a core-local address of core `c` (R137, R151). -/
def localKey (d : Dev) (c a n : Nat) : Option Nat :=
  if a + n ≤ 0x600000 then some (spKey c a)
  else if 0x1000000 ≤ a ∧ a + n ≤ 0x1000000 + sharedSize d (clOf c) then some (shKey (clOf c) (a - 0x1000000))
  else none

/-- The memory of R137 that an address lies in: 0 weight, 1 activation, 2 partial-sum, 3 cluster shared memory. -/
def memOf (a : Nat) : Option Nat :=
  if a < 0x200000 then some 0
  else if a < 0x500000 then some 1
  else if a < 0x600000 then some 2
  else if 0x1000000 ≤ a ∧ a < 0x2000000 then some 3
  else none

/-- First address beyond a memory of R137. -/
def memEnd (d : Dev) (c m : Nat) : Nat := [0x200000, 0x500000, 0x600000, 0x1000000 + sharedSize d (clOf c)].getD m 0

/-! ### ECC -/

/-- Granules of a mark table that `n` bytes at key `k` touch; no row sets one (log entry 64, DESIGN CHOICE). -/
def marksIn (t : Table Bool) (k n : Nat) : List Nat :=
  (t.filter fun e => decide (k / 8 ≤ e.1) && decide (8 * e.1 < k + n) && decide (0 < n)).map (·.1)

/-- Whether a byte of memory lies in a poisoned granule. -/
def poisoned (d : Dev) (k : Nat) : Bool := look false d.poison (k / 8)

/-- PATH of the memory that a key lies in (R332). Log entry 146, DESIGN CHOICE: a region record, which has no block of its own, has that of its
memory. -/
def keyPath (d : Dev) (x k : Nat) : Nat :=
  if k < 2 ^ 32 then
    let a := k % 2 ^ 23
    corePath d (k / 2 ^ 23) 0 (if a < 0x200000 then 1 else if a < 0x500000 then 2 else 3)
  else if k < 2 ^ 40 then clusterPath d ((k - 2 ^ 32) / 2 ^ 24) 12
  else if k < 2 ^ 80 then hbmPath d (k - 2 ^ 40) (ctxOf d x).salt
  else if k < 2 ^ 81 then corePath d ((k - 2 ^ 80) / 2 ^ 52) 0 4
  else if k < 2 ^ 82 then clusterPath d ((k - 2 ^ 81) / 2 ^ 52) 12
  else if k < 2 ^ 83 then corePath d ((k - 2 ^ 82) / 2 ^ 19) ((k - 2 ^ 82) / 2 ^ 17 % 4) 9
  else if k < 2 ^ 84 then corePath d ((k - 2 ^ 83) / 2 ^ 13) ((k - 2 ^ 83) / 2 ^ 11 % 4) 10
  else if k < 2 ^ 85 then
    let r := (k - 2 ^ 84) / 16
    if r % 512 < 64 then clusterPath d (r / 512) 12 else corePath d (8 * (r / 512) + (r % 512 - 64) / 48) 0 ((r % 512 - 64) % 48 / 16 + 1)
  else hubPath d 31 31 26

/-- The cluster of an SRAM key. -/
def keyCluster (k : Nat) : Nat :=
  if k < 2 ^ 32 then k / 2 ^ 26
  else if k < 2 ^ 40 then (k - 2 ^ 32) / 2 ^ 24
  else if k < 2 ^ 81 then (k - 2 ^ 80) / 2 ^ 55
  else if k < 2 ^ 82 then (k - 2 ^ 81) / 2 ^ 52
  else if k < 2 ^ 83 then (k - 2 ^ 82) / 2 ^ 22
  else if k < 2 ^ 84 then (k - 2 ^ 83) / 2 ^ 16
  else (k - 2 ^ 84) / 2 ^ 13

/-- The reader number of the package itself (R333). -/
def packageReader : Nat := 64

/-- A single-bit error: corrected, written back and counted (R156, R330). -/
def eccFix (d : Dev) (x g : Nat) : Dev :=
  let k := 8 * g
  let d := { d with upset := put false d.upset g false }
  if isSram k then correctable d 0x0101 ((holder d (keyCluster k)).getD 0xFF) (keyPath d x k)
  else if isHub k then correctable d 0x0101 0xFF (keyPath d x k)
  else if isHbm k then correctable d 0x0102 (if x = packageReader then 0xFF else x) (keyPath d x k)
  else d

/-- An uncorrectable error met by a read: counted, and a windfall (R156, R330, R333). -/
def eccFail (d : Dev) (x g : Nat) : Dev :=
  let k := 8 * g
  if isSram k then windfall (obump d 64 0x8010 2 1) 0x0001 sCtx ((holder d (keyCluster k)).getD 0xFF) (keyPath d x k)
  else if isHub k then windfall (obump d 64 0x8010 2 1) 0x0001 sPackage 0xFF (keyPath d x k)
  else if isHbm k then
    windfall (obump d 64 0x8010 4 1) 0x0002 (if x = packageReader then sPackage else sCtx) (if x = packageReader then 0xFF else x) (keyPath d x k)
  else d

/-- What the error correction does when `n` bytes at key `k` are read for context `x`. Log entry 63, DEDUCED. -/
def eccRead (d : Dev) (x k n : Nat) : Dev :=
  let d := (marksIn d.upset k n).foldl (fun d g => eccFix d x g) d
  (marksIn d.poison k n).foldl (fun d g => eccFail d x g) d

/-- Granules that `n` bytes at key `k` cover in part. -/
def partGranules (k n : Nat) : List Nat :=
  if n = 0 then []
  else
    let first := if k % 8 ≠ 0 ∨ n < 8 - k % 8 then [k / 8] else []
    let last := if (k + n) % 8 ≠ 0 ∧ (k + n) / 8 ≠ k / 8 then [(k + n) / 8] else []
    first ++ last

/-- Writes bytes at a key: a granule covered in part is read first and keeps its poison mark; one covered whole loses its marks
(R142, R156). -/
def memWrite (d : Dev) (x k : Nat) (bs : List Byte) : Dev :=
  let d := (partGranules k bs.length).foldl (fun d g => eccRead d x (8 * g) 8) d
  let lo := cdiv k 8
  let hi := (k + bs.length) / 8
  { d with mem := writeMem d.mem k bs, poison := clearMarks d.poison lo (hi - lo), upset := clearMarks d.upset lo (hi - lo) }

/-- Sets the poison mark on every granule that bytes marked poisoned reach (R427). -/
def poisonFrom (d : Dev) (k : Nat) (marks : List Bool) : Dev :=
  (List.range marks.length).foldl (fun d i =>
    if marks.getD i false then { d with poison := put false d.poison ((k + i) / 8) true } else d) d

/-- The bytes at a key, and the marks that they carry. -/
def memBytes (d : Dev) (k n : Nat) : List Byte := readMem d.mem k n
def memMarks (d : Dev) (k n : Nat) : List Bool := (List.range n).map fun i => poisoned d (k + i)

/-! ### Pages -/

/-- How an access ends: done, refused, a page fault (address, whether write-protected), no frame for a demand page, or not yet: a flagged
requester of it waits (R168). -/
inductive Acc (α : Type) where
  | ok (a : α) (d : Dev)
  | wait (d : Dev)
  | bad (d : Dev)
  | page (va : Nat) (prot : Bool) (d : Dev)
  | resource (va : Nat) (d : Dev)
  deriving DecidableEq, Repr

def Acc.bind {α β : Type} (r : Acc α) (f : α → Dev → Acc β) : Acc β :=
  match r with
  | .ok a d => f a d
  | .wait d => .wait d
  | .bad d => .bad d
  | .page va p d => .page va p d
  | .resource va d => .resource va d

/-- Key of the 64 KiB page at an address, and of the granule that holds it. -/
def pageKey (x va : Nat) : Nat := x * 2 ^ 36 + va / 65536
def granKey (x va : Nat) : Nat := x * 2 ^ 36 + va / 2097152 * 32

/-- The key at which the page of an address is listed; addresses have 52 bits (R245). -/
def pageHome (d : Dev) (x va : Nat) : Nat :=
  match look none d.vm.pages (granKey x va) with
  | some p => if p.kind < 2 then granKey x va else pageKey x va
  | none => pageKey x va

/-- The page mapped at an address. -/
def pageAt (d : Dev) (x va : Nat) : Option Page := if va < 2 ^ 52 then look none d.vm.pages (pageHome d x va) else none

def pageSet (d : Dev) (key : Nat) (p : Option Page) : Dev := { d with vm := { d.vm with pages := put none d.vm.pages key p } }

/-- Pseudo-channels of the HBM requests for `n` bytes at a device virtual address, each of up to 256 bytes (R161, R252). -/
def hbmChannels (d : Dev) (x va n : Nat) : List Nat :=
  (List.range (n / 256 + 2)).filterMap fun i =>
    let a := va / 256 * 256 + 256 * i
    if va + n ≤ a then none
    else match pageAt d x a with
      | some p => if p.kind = 0 then p.frame.map fun f => pseudoChannel (f * 2097152 + a % 2097152) (ctxOf d x).salt else none
      | none => none

/-- Whether a flagged requester of HBM keeps an access waiting (R168). -/
def hbmWaits (d : Dev) (x req va n : Nat) : Bool := anyFlag d && (hbmChannels d x va n).any fun ch => hbmFlagged d ch req

/-- Splits a range where it crosses 64 KiB boundaries. -/
def splitVa : Nat → Nat → Nat → List (Nat × Nat)
  | 0, _, _ => []
  | fuel + 1, va, n =>
    if n = 0 then []
    else
      let room := 65536 - va % 65536
      if n ≤ room then [(va, n)] else (va, room) :: splitVa fuel (va + room) (n - room)

/-- Whether a range lies in a host page and waits there while Bus Master Enable is 0 (R345). Log entry 149, DEDUCED. -/
def hostWaits (d : Dev) (x va n : Nat) : Bool :=
  !d.host.busMaster && (splitVa (n / 65536 + 2) va n).any fun e => match pageAt d x e.1 with
    | some p => decide (p.kind = 2)
    | none => false

/-- Pages of a context of a kind that hold a frame; each is 2 MiB (R262). -/
def framesHeld (d : Dev) (x kind : Nat) : Nat :=
  (d.vm.pages.filter fun e => decide (e.1 / 2 ^ 36 = x) && (match e.2 with
    | some p => decide (p.kind = kind) && p.frame.isSome
    | none => false)).length

/-- HBM_IN_USE or TIER_IN_USE in MiB. -/
def mibHeld (d : Dev) (x kind : Nat) : Nat := 2 * framesHeld d x kind

/-- The quota of a kind in MiB; none is no limit. -/
def quotaOf (d : Dev) (x kind : Nat) : Option Nat :=
  let q := cobj d x (if kind = 0 then 3 else 4)
  if q = 0xFFFFFFFF then none else some q

/-- Whether `n` more frames stay within the quota. -/
def quotaAllows (d : Dev) (x kind n : Nat) : Bool :=
  match quotaOf d x kind with
  | none => true
  | some q => decide (mibHeld d x kind + 2 * n ≤ q)

/-- The lowest frame from `lo` on that a table of used frames leaves free. -/
def lowestFree (lo : Nat) : Table Bool → Nat
  | [] => lo
  | (k, _) :: r => if k < lo then lowestFree lo r else if k = lo then lowestFree (lo + 1) r else lo

/-- Frames that serve contexts: HBM 256 to 183,104 (R244), tier as found at start-up (R251). -/
def frameTable (d : Dev) (kind : Nat) : Table Bool := if kind = 0 then d.vm.hbmUsed else d.vm.tierUsed
def frameFirst (kind : Nat) : Nat := if kind = 0 then 256 else 0
def frameEnd (d : Dev) (kind : Nat) : Nat := if kind = 0 then 183105 else d.vm.tierFrames

/-- HBM_FREE and TIER_FREE (R251). -/
def framesFree (d : Dev) (kind : Nat) : Nat := frameEnd d kind - frameFirst kind - (frameTable d kind).length

def setFrame (d : Dev) (kind f : Nat) (used : Bool) : Dev :=
  if kind = 0 then { d with vm := { d.vm with hbmUsed := put false d.vm.hbmUsed f used } }
  else { d with vm := { d.vm with tierUsed := put false d.vm.tierUsed f used } }

/-- Key of the first byte of a frame. -/
def frameKey (kind f : Nat) : Nat := if kind = 0 then hbmKey (f * 2097152) else tierKey (f * 2097152)

/-- Takes the lowest free frame, zeroed (R250, R252). -/
def takeFrame (d : Dev) (kind : Nat) : Option (Nat × Dev) :=
  let f := lowestFree (frameFirst kind) (frameTable d kind)
  if f < frameEnd d kind then some (f, zeroRange (setFrame d kind f true) (frameKey kind f) 2097152) else none

/-- The key of one byte of a context's address space; a demand page takes its frame at its first access (R245, R249). -/
def resolve (d : Dev) (x va : Nat) (write : Bool) : Acc Nat :=
  match pageAt d x va with
  | none => .page va false d
  | some p =>
    if write && !p.w then .page va true d
    else
      let key := pageHome d x va
      if p.kind = 2 then .ok (hostKey (p.addr + va % 65536)) (pageSet d key (some { p with accessed := true }))
      else match p.frame with
        | some f => .ok (frameKey p.kind f + va % 2097152) (pageSet d key (some { p with accessed := true }))
        | none =>
          if !quotaAllows d x p.kind 1 then .resource va d
          else match takeFrame d p.kind with
            | none => .resource va d
            | some (f, d) => .ok (frameKey p.kind f + va % 2097152) (pageSet d key (some { p with accessed := true, frame := some f }))

/-- Resolves the pieces of a range in order. -/
def resolveAll (x : Nat) (write : Bool) : List (Nat × Nat) → Dev → Acc (List (Nat × Nat))
  | [], d => .ok [] d
  | (va, n) :: r, d => (resolve d x va write).bind fun k d => (resolveAll x write r d).bind fun l d => .ok ((k, n) :: l) d

/-- The keys of `n` bytes at a device virtual address. -/
def keysVa (d : Dev) (x va n : Nat) (write : Bool) : Acc (List (Nat × Nat)) :=
  resolveAll x write (splitVa (n / 65536 + 2) va n) d

/-- Bytes of a list of key ranges. -/
def rangesBytes (d : Dev) (l : List (Nat × Nat)) : List Byte := l.flatMap fun e => memBytes d e.1 e.2
def rangesMarks (d : Dev) (l : List (Nat × Nat)) : List Bool := l.flatMap fun e => memMarks d e.1 e.2
def rangesEcc (d : Dev) (x : Nat) (l : List (Nat × Nat)) : Dev := l.foldl (fun d e => eccRead d x e.1 e.2) d

/-- Writes bytes over a list of key ranges, with poison marks where the source carried them. -/
def rangesWrite (x : Nat) : List (Nat × Nat) → List Byte → List Bool → Dev → Dev
  | [], _, _, d => d
  | (k, n) :: r, bs, ms, d =>
    rangesWrite x r (bs.drop n) (ms.drop n) (poisonFrom (memWrite d x k (bs.take n)) k (ms.take n))

/-- Reads device virtual memory past the caches. -/
def readVa (d : Dev) (x va n : Nat) : Acc (List Byte) :=
  (keysVa d x va n false).bind fun l d => .ok (rangesBytes d l) (rangesEcc d x l)

/-- Writes device virtual memory past the caches. -/
def writeVa (d : Dev) (x va : Nat) (bs : List Byte) : Acc Unit :=
  (keysVa d x va bs.length true).bind fun l d => .ok () (rangesWrite x l bs [] d)

/-! ### The cluster cache -/

/-- Whether a cluster has a cache, and how many lines it holds (R151). -/
def cacheLines (d : Dev) (cl : Nat) : Nat := og d 0x4010 (cl + 1) * 65536

def lineAt (d : Dev) (cl line : Nat) : Option CacheLine := look none (clusterOf d cl).cache line
def lineSet (d : Dev) (cl line : Nat) (v : Option CacheLine) : Dev :=
  clusterUpd d cl fun k => { k with cache := put none k.cache line v }

/-- A line of the data cache of core `c`. -/
def dLineAt (d : Dev) (c line : Nat) : Option DLine := look none (coreOf d c).dcache line
def dLineSet (d : Dev) (c line : Nat) (v : Option DLine) : Dev :=
  coreUpd d c fun k => { k with dcache := put none k.dcache line v }

/-- Moves the bytes of a line between two keys: the destination carries the marks of the source (R427; log entry 62, DEDUCED). -/
def moveMarks (d : Dev) (x src dst : Nat) : Dev :=
  let ms := memMarks d src 64
  let d := eccRead d x src 64
  poisonFrom { d with poison := clearMarks d.poison (dst / 8) 8, upset := clearMarks d.upset (dst / 8) 8 } dst ms

/-- Clears the marks of a line that is held no more. -/
def dropMarks (d : Dev) (k : Nat) : Dev :=
  { d with poison := clearMarks d.poison (k / 8) 8, upset := clearMarks d.upset (k / 8) 8 }

/-- The directory brings a core's copy of a line down to state `lim`: modified bytes go to the cluster cache (R154). -/
def callIn (d : Dev) (c line lim : Nat) : Dev :=
  let cl := clOf c
  match dLineAt d c line, lineAt d cl line with
  | some u, some v =>
    let d := if u.state = 3 then moveMarks d v.ctx (dcKey c line) (ccKey cl line) else d
    let v := if u.state = 3 then { v with data := u.data, dirty := true } else v
    let d := lineSet d cl line (some { v with dir := put 0 v.dir (c % 8) lim })
    if lim = 0 then dLineSet (dropMarks d (dcKey c line)) c line none else dLineSet d c line (some { u with state := lim })
  | some _, none => dLineSet (dropMarks d (dcKey c line)) c line none
  | none, _ => d

/-- Brings every other core's copy of a line down to state `lim` at most: core `c` keeps its own. -/
def callInOthers (d : Dev) (c line lim : Nat) : Dev :=
  (List.range 8).foldl (fun d i =>
    let o := 8 * clOf c + i
    match dLineAt d o line with
    | some u => if o ≠ c ∧ lim < u.state then callIn d o line lim else d
    | none => d) d

/-- Brings every core's copy of a line of a cluster down to state `lim` at most. -/
def callInAll (d : Dev) (cl line lim : Nat) : Dev :=
  (List.range 8).foldl (fun d i =>
    match dLineAt d (8 * cl + i) line with
    | some u => if lim < u.state then callIn d (8 * cl + i) line lim else d
    | none => d) d

/-- Writes a dirty line back to its context's memory; one whose page no longer takes it is lost (log entry 25, DESIGN CHOICE). -/
def writeBack (d : Dev) (cl line : Nat) (v : CacheLine) : Dev :=
  if v.dirty then
    let ms := memMarks d (ccKey cl line) 64
    match keysVa (eccRead d v.ctx (ccKey cl line) 64) v.ctx (line * 64) 64 true with
    | .ok l d => rangesWrite v.ctx l v.data ms d
    | .wait d => d
    | .bad d => d
    | .page _ _ d => d
    | .resource _ d => d
  else d

/-- Drops a line and every core's copy of it, writing it back first when asked. -/
def dropLine (d : Dev) (cl line : Nat) (wb : Bool) : Dev :=
  let d := callInAll d cl line 0
  match lineAt d cl line with
  | none => d
  | some v => lineSet (dropMarks (if wb then writeBack d cl line v else d) (ccKey cl line)) cl line none

/-- Writes a line back and keeps it clean, in the cores as well. -/
def cleanLine (d : Dev) (cl line : Nat) : Dev :=
  let d := callInAll d cl line 2
  match lineAt d cl line with
  | none => d
  | some v => lineSet (writeBack d cl line v) cl line (some { v with dirty := false })

/-- Every line that a cluster's cache holds. -/
def linesOf (d : Dev) (cl : Nat) : List Nat := (clusterOf d cl).cache.map (·.1)

/-- Writes back (or discards) and invalidates a whole cache. -/
def emptyCache (d : Dev) (cl : Nat) (wb : Bool) : Dev := (linesOf d cl).foldl (fun d l => dropLine d cl l wb) d

/-- Writes back every dirty line and keeps the lines. -/
def cleanCache (d : Dev) (cl : Nat) : Dev := (linesOf d cl).foldl (fun d l => cleanLine d cl l) d

/-- An access may push out a line of its cache's choice (log entry 17, DESIGN CHOICE). -/
def evictSome (d : Dev) (cl : Nat) : Dev :=
  let (n, d) := draw d
  match (Config.evict n).bind ((linesOf d cl)[·]?) with
  | some l => dropLine d cl l true
  | none => d

/-- A full cache gives up a line for a new one. -/
def roomForLine (d : Dev) (cl : Nat) : Dev :=
  let ls := linesOf d cl
  if cacheLines d cl ≤ ls.length then dropLine d cl (ls.headD 0) true else d

/-- The line of an address in the cache, filled from memory when it is not there (R154); bytes from a poisoned granule carry their mark
into it (R427). -/
def fillLine (d : Dev) (x cl line : Nat) : Acc CacheLine :=
  let d := evictSome d cl
  match lineAt d cl line with
  | some v => if v.ctx = x then .ok v d else fill (dropLine d cl line true)
  | none => fill d
where
  fill (d : Dev) : Acc CacheLine :=
    (keysVa (roomForLine d cl) x (line * 64) 64 false).bind fun l d =>
      let ms := rangesMarks d l
      let v : CacheLine := ⟨x, rangesBytes d l, false, []⟩
      .ok v (poisonFrom (lineSet (rangesEcc d x l) cl line (some v)) (ccKey cl line) ms)

/-- Lines that a core data cache holds (R154). -/
def dcacheLines : Nat := 512

/-- A core may give up a line of its cache's choice (log entry 17, DESIGN CHOICE); a full cache gives one up for a new line. -/
def evictOwn (d : Dev) (c : Nat) : Dev :=
  let (n, d) := draw d
  let ls := (coreOf d c).dcache.map (·.1)
  let forced (d : Dev) : Dev := if dcacheLines ≤ ls.length then callIn d c (ls.headD 0) 0 else d
  match (Config.evict n).bind (ls[·]?) with
  | some l => callIn d c l 0
  | none => forced d

/-- Core `c` takes a copy of a line in state `st`, with the bytes of the cluster cache. -/
def installLine (d : Dev) (x c line st : Nat) (v : CacheLine) (data : List Byte) : Dev :=
  let cl := clOf c
  let d := moveMarks d x (ccKey cl line) (dcKey c line)
  dLineSet (lineSet d cl line (some { v with dir := put 0 v.dir (c % 8) st })) c line (some ⟨data, st⟩)

/-- Core `c` reads a line: its own copy, or a copy that it takes through the directory, exclusive when no other core holds the line
(R154, R155). -/
def loadLine (d : Dev) (x c line : Nat) : Acc (List Byte) :=
  match dLineAt d c line, lineAt d (clOf c) line with
  | some u, some v => if v.ctx = x then .ok u.data (eccRead d x (dcKey c line) 64) else miss d
  | _, _ => miss d
where
  miss (d : Dev) : Acc (List Byte) :=
    (fillLine d x (clOf c) line).bind fun v d =>
      let d := callInOthers (evictOwn d c) c line 1
      let v := (lineAt d (clOf c) line).getD v
      .ok v.data (installLine d x c line (if v.dir.any fun e => decide (e.1 ≠ c % 8 ∧ e.2 ≠ 0) then 1 else 2) v v.data)

/-- Overwrites bytes within a line. -/
def patch (bs : List Byte) (off : Nat) (new : List Byte) : List Byte := bs.take off ++ new ++ bs.drop (off + new.length)

/-- Splits a range where it crosses 64-byte lines. -/
def splitLines : Nat → Nat → Nat → List (Nat × Nat)
  | 0, _, _ => []
  | fuel + 1, va, n =>
    if n = 0 then []
    else
      let room := 64 - va % 64
      if n ≤ room then [(va, n)] else (va, room) :: splitLines fuel (va + room) (n - room)

/-- Core `c` writes bytes of a line: it holds the line modified afterwards, and no other core holds it (R154, R155). -/
def storeLine (d : Dev) (x c line off : Nat) (bs : List Byte) : Acc Unit :=
  match dLineAt d c line, lineAt d (clOf c) line with
  | some u, some v => if v.ctx = x ∧ 2 ≤ u.state then .ok () (own (lineSet d (clOf c) line (some { v with dir := put 0 v.dir (c % 8) 3 })) u.data)
    else miss d
  | _, _ => miss d
where
  own (d : Dev) (data : List Byte) : Dev :=
    let k := dcKey c line
    let d := (partGranules (k + off) bs.length).foldl (fun d g => eccRead d x (8 * g) 8) d
    let lo := cdiv (k + off) 8
    let n := (k + off + bs.length) / 8 - lo
    dLineSet { d with poison := clearMarks d.poison lo n, upset := clearMarks d.upset lo n } c line (some ⟨patch data off bs, 3⟩)
  miss (d : Dev) : Acc Unit :=
    (fillLine d x (clOf c) line).bind fun v d =>
      let d := callInOthers (evictOwn (callIn d c line 0) c) c line 0
      let v := (lineAt d (clOf c) line).getD v
      .ok () (own (installLine d x c line 3 v v.data) v.data)

/-- Loads the pieces of a range through the cache of core `c`. -/
def loadLines (x c : Nat) : List (Nat × Nat) → Dev → Acc (List Byte)
  | [], d => .ok [] d
  | (va, n) :: r, d =>
    (loadLine d x c (va / 64)).bind fun data d => (loadLines x c r d).bind fun bs d => .ok ((data.drop (va % 64)).take n ++ bs) d

/-- Stores the pieces of a range through the cache of core `c`. -/
def storeLines (x c : Nat) : List (Nat × Nat) → List Byte → Dev → Acc Unit
  | [], _, d => .ok () d
  | (va, n) :: r, bs, d => (storeLine d x c (va / 64) (va % 64) (bs.take n)).bind fun _ d => storeLines x c r (bs.drop n) d

/-- Whether a flagged requester of a cached access of core `c` keeps it waiting: the directory or cache of the cluster's banks, its
fabric port, or the queues of HBM (R155, R168, R170). -/
def cacheWaits (d : Dev) (x c va n : Nat) : Bool :=
  bankFlagged d c 9 || bankFlagged d c 10 || fabricFlaggedAt d c 3 || hbmWaits d x 3 va n

/-- A load of device virtual memory by core `c` (R154, R197). -/
def loadVa (d : Dev) (x c va n : Nat) : Acc (List Byte) :=
  if 2 ^ 52 < va + n then .bad d
  else if hostWaits d x va n then .wait d
  else if cacheLines d (clOf c) = 0 then readVa d x va n
  else (keysVa d x va n false).bind fun _ d =>
    if cacheWaits d x c va n then .wait d else loadLines x c (splitLines (n / 64 + 2) va n) d

/-- A store to device virtual memory by core `c`. -/
def storeVa (d : Dev) (x c va : Nat) (bs : List Byte) : Acc Unit :=
  if 2 ^ 52 < va + bs.length then .bad d
  else if hostWaits d x va bs.length then .wait d
  else if cacheLines d (clOf c) = 0 then writeVa d x va bs
  else (keysVa d x va bs.length true).bind fun _ d =>
    if cacheWaits d x c va bs.length then .wait d else storeLines x c (splitLines (bs.length / 64 + 2) va bs.length) bs d

/-- A read through an address operand by core `c` for context `x` (R178). -/
def operandRead (d : Dev) (x c : Nat) (v : Word) (n align : Nat) : Acc (List Byte) :=
  if v.toNat % align ≠ 0 then .bad d
  else match placeOf v with
    | none => .bad d
    | some (.loc a) => (match localKey d c a n with
      | none => .bad d
      | some k => .ok (memBytes d k n) (eccRead d x k n))
    | some (.va a) => loadVa d x c a n

/-- A write through an address operand by core `c` for context `x`. -/
def operandWrite (d : Dev) (x c : Nat) (v : Word) (bs : List Byte) (align : Nat) : Acc Unit :=
  if v.toNat % align ≠ 0 then .bad d
  else match placeOf v with
    | none => .bad d
    | some (.loc a) => (match localKey d c a bs.length with
      | none => .bad d
      | some k => .ok () (memWrite d x k bs))
    | some (.va a) => storeVa d x c a bs

end Sys2Proof.Machine
end

