-- ==== Sys2Proof/Machine/Operands.lean ====
section
/-! DEFINITION. Operand forms of the instruction word (R176, R179): registers, predicates, immediates, lanes. -/

namespace Sys2Proof.Machine

/-- x0 reads zero (R176). -/
def getX (k : Core) (r : BitVec 5) : Word := if r = 0 then 0 else look 0 k.x r.toNat

/-- Writes to x0 are ignored (R176). -/
def setX (k : Core) (r : BitVec 5) (v : Word) : Core := if r = 0 then k else { k with x := put 0 k.x r.toNat v }

def getV (k : Core) (r : BitVec 5) : Lanes := look 0 k.v r.toNat
def setV (k : Core) (r : BitVec 5) (v : Lanes) : Core := { k with v := put 0 k.v r.toNat v }

/-- p0 reads all ones (R176). -/
def getP (k : Core) (r : BitVec 3) : BitVec 128 := if r = 0 then BitVec.allOnes 128 else look 0 k.p r.toNat

/-- Writes to p0 are ignored (R176). -/
def setP (k : Core) (r : BitVec 3) (v : BitVec 128) : Core := if r = 0 then k else { k with p := put 0 k.p r.toNat v }

/-- The immediate of a scalar operation: sign-extended to 64 bits (R179). -/
def simm (f : Fields) : Word := f.imm.signExtend 64

/-- Bits of IMM. -/
def immBits (f : Fields) (hi lo : Nat) : Nat := bits f.imm.toNat hi lo

/-- The third source register, IMM[4:0] (R179). -/
def rs3 (f : Fields) : BitVec 5 := BitVec.ofNat 5 f.imm.toNat

/-- Element `e` of `w` bits of a register. -/
def elemOf (v : Lanes) (w e : Nat) : Nat := (v.toNat >>> (w * e)) % 2 ^ w

/-- A register of `n` elements of `w` bits. -/
def packElems (w n : Nat) (g : Nat → Nat) : Lanes := BitVec.ofNat 4096 (packNat w g n)

/-- Lane `l` as 32 bits. -/
def lane (v : Lanes) (l : Nat) : W32 := BitVec.ofNat 32 (elemOf v 32 l)

/-- The bytes of a register, lane 0 first (R176). -/
def laneBytes (v : Lanes) : List Byte := toLE 512 v.toNat

/-- The register that 512 bytes stand for. -/
def bytesLanes (bs : List Byte) : Lanes := BitVec.ofNat 4096 (leNat bs)

end Sys2Proof.Machine
end

