-- ==== Sys2Proof/Machine/Tasks.lean ====
section
/-! DEFINITION. Running tasks: flags, faults and paused accesses (R64, R197, R214, R258, R259), and the tally nodes (R222 to R243). -/

namespace Sys2Proof.Machine

/-! ### Tasks of the active graph -/

def graphUpd (d : Dev) (x : Nat) (f : Graph → Graph) : Dev := ctxUpd d x fun k => { k with graph := k.graph.map f }
def taskOf (d : Dev) (x t : Nat) : Option TaskSt := (ctxOf d x).graph.bind fun g => look none g.tasks t
def taskUpd (d : Dev) (x t : Nat) (f : TaskSt → TaskSt) : Dev :=
  graphUpd d x fun g => { g with tasks := upd none g.tasks t (Option.map f) }

/-- The flag word of a task of the active graph (R64, R65). -/
def taskFlags (d : Dev) (x t : Nat) : Half :=
  match taskOf d x t with
  | some s => s.flags
  | none => 0

/-- Flags are sticky for the run on a core and for its task (R64, R211). -/
def raise (d : Dev) (x t c : Nat) (f : Half) : Dev :=
  let d := taskUpd d x t fun s => { s with flags := s.flags ||| f }
  coreUpd d c fun k => match k.inst with
    | some i => if i.ctx = x ∧ i.task = t then { k with flags := k.flags ||| f } else k
    | none => k

/-- Sums counters into a statistics record, each saturating at 32 bits (R80). -/
def Stats.sum (a b : Stats) : Stats :=
  { bins := b.bins.foldl (fun t e => upd 0 t e.1 fun n => satAdd 32 n e.2) a.bins
    clipLo := satAdd 32 a.clipLo b.clipLo
    clipHi := satAdd 32 a.clipHi b.clipHi
    scExtra := satAdd 32 a.scExtra b.scExtra
    accSat := satAdd 32 a.accSat b.accSat
    ufZero := satAdd 32 a.ufZero b.ufZero
    blocks := satAdd 32 a.blocks b.blocks
    sidecars := satAdd 32 a.sidecars b.sidecars }

/-- Adds counters to a task's statistics record (R80). -/
def count (d : Dev) (x t : Nat) (b : Stats) : Dev := taskUpd d x t fun s => { s with stats := Stats.sum s.stats b }

/-- A bin of the histogram (R79). -/
def binStat (b : Nat) : Stats := { Stats.zero with bins := [(b, 1)] }

/-! ### Stopping and pausing a core -/

/-- Takes a core out of every line of waiters. -/
def leaveLines (d : Dev) (c : Nat) : Dev :=
  { d with tallies := d.tallies.map fun e => (e.1, { e.2 with line := e.2.line.filter fun w => decide (w.1 ≠ .core c) }) }

/-- Withdraws an unanswered page fault. -/
def withdrawFault (d : Dev) (x id : Nat) : Dev :=
  sqUpd (ctxUpd d x fun k => { k with faults := k.faults.filter fun r => decide (r.id ≠ id) }) x fun q =>
    { q with fqWait := q.fqWait.filter fun r => decide (r.id ≠ id) }

/-- A TLOAD that has begun completes: the slot holds the table and xd receives COMPLETE (R121, R432). -/
def finishTload (d : Dev) (c : Nat) : Dev :=
  let k := coreOf d c
  match k.tload, k.inst with
  | some (slot, tab, rd), some i =>
    let d := ctxUpd d i.ctx fun x => { x with tables := put none x.tables slot (some tab), reserved := put false x.reserved slot false }
    coreSet d c { setX k rd 0 with tload := none, status := .running, pc := k.pc + 8 }
  | _, _ => d

/-- Ends the run on a core: it stops at the boundary, queued vector instructions are discarded (R196), its flags and cycles go to its task
(R211, R214). -/
def stopInst (d : Dev) (c : Nat) : Dev :=
  match (coreOf d c).inst with
  | none => d
  | some i =>
    let d := leaveLines (finishTload d c) c
    let k := coreOf d c
    let d := match k.fault with
      | some id => withdrawFault d i.ctx id
      | none => d
    let d := taskUpd d i.ctx i.task fun s =>
      { s with ended := s.ended ++ [c], flags := s.flags ||| k.flags, cycles := max s.cycles (k.halfCycles / 2) }
    coreUpd d c fun k => { k with status := .idle, held := false, gated := false, inst := none, fault := none, tload := none, vq := [], adam := 0 }

/-- Whether core `c` runs task `t` of context `x`. -/
def runs (d : Dev) (x t c : Nat) : Bool :=
  match (coreOf d c).inst with
  | some i => decide (i.ctx = x) && decide (i.task = t)
  | none => false

/-- Records a fault in the graph: the first stands, none counts after a cancellation, and dispatch stops (R214, R215). -/
def graphFault (d : Dev) (x code idx unit : Nat) (detail : Word) : Dev :=
  graphUpd d x fun g =>
    { g with stopped := true, fault := if g.cancelled then g.fault else g.fault.or (some (code, idx, unit, detail)) }

/-! ### Task readiness and lines of waiters -/

def tallyOf (d : Dev) (k : Nat) : Tally := look Tally.reset d.tallies k
def tallySet (d : Dev) (k : Nat) (v : Tally) : Dev := { d with tallies := put Tally.reset d.tallies k v }

/-- Reads a task descriptor (R201). -/
def parseTask (b : List Byte) : TaskDesc :=
  let c := fld b 21 1
  { prog := BitVec.ofNat 64 (fld b 0 8), arg := BitVec.ofNat 64 (fld b 8 8), clusters := fld b 16 4, cores := fld b 20 1,
    prio := c % 8, persist := bit c 3, ftz := bit c 4, notify := bit c 5, seed := BitVec.ofNat 16 (fld b 22 2),
    startTally := fld b 24 2, pred := fld b 26 2, succCount := fld b 28 1,
    succ := (List.range 8).map fun i => (fld b (32 + 4 * i) 2 % 32768, fld b (34 + 4 * i) 2),
    stats := fld b 64 8, timeout := fld b 72 4 }

/-- The cluster of a tally reference (R202). -/
def refCl (r : Nat) : Nat := r / 1024 % 32

/-- The lowest cluster of a mask: a task's home cluster (R203). -/
def homeOf (mask : Nat) : Nat := (clustersIn mask).headD 0

/-- R203. -/
def taskValid (d : Dev) (x : Nat) (t : TaskDesc) : Bool :=
  decide (t.clusters ≠ 0) && decide (t.clusters &&& maskOf d x = t.clusters) && decide (t.cores ≠ 0) &&
    decide (t.prog.toNat % 8 = 0) && decide (t.stats % 64 = 0) &&
    (decide (t.pred = 0) || decide (refCl t.startTally = homeOf t.clusters)) && decide (t.succCount ≤ 8) &&
    ((t.succ.take t.succCount).all fun e => bit (maskOf d x) (refCl e.1) && decide (1 ≤ e.2))

/-- Puts a task in the ready queue of each of its clusters, or in the pending bitmap of a full one (R207). -/
def enqueueTask (d : Dev) (x t mask : Nat) : Dev :=
  (clustersIn mask).foldl (fun d cl => clusterUpd d cl fun k =>
    if k.ready.length < 512 then { k with ready := k.ready ++ [(x, t)] } else { k with waiting := k.waiting ++ [(x, t)] }) d

/-- Dispatches a ready task: its descriptor is read again, and one that breaks R203 completes it with BAD_TASK (R206, R207). -/
def announce (d : Dev) (x t : Nat) : Dev :=
  match (ctxOf d x).graph with
  | none => d
  | some g =>
    let bad (d : Dev) : Dev := graphFault (taskUpd d x t fun s =>
      { s with phase := .running, fault := s.fault.or (some (0x1072, 0, BitVec.ofNat 64 t)) }) x 0x1072 t 0 (BitVec.ofNat 64 t)
    match readVa d x (g.taskBase + 128 * t) 128 with
    | .ok b d =>
      let desc := parseTask b
      if taskValid d x desc then enqueueTask (taskUpd d x t fun s => { s with desc := desc }) x t desc.clusters else bad d
    | .bad d => bad d
    | .wait d => bad d
    | .page _ _ d => bad d
    | .resource _ d => bad d

/-- A task becomes ready; it is dispatched unless its graph has stopped (R205, R214, R215). -/
def taskReady (d : Dev) (x t : Nat) : Dev :=
  match (ctxOf d x).graph, taskOf d x t with
  | some g, some s =>
    if s.phase = .waiting then
      let d := taskUpd d x t fun s => { s with phase := .ready }
      if g.stopped then d else announce d x t
    else d
  | _, _ => d

/-- Frees a waiter: a core goes on behind its WAIT, a start tally's task becomes ready, a send list has its GO (R227, R232, R295). -/
def wake (d : Dev) (barrier : Bool) (w : Waiter) : Dev :=
  match w with
  | .core c => coreUpd d c fun k =>
      { k with status := .running, gated := false, pc := k.pc + 8, latch := if barrier then none else k.latch }
  | .start x t => taskReady d x t
  | .sendList x dir => ctxUpd d x fun k =>
      if dir = 0 then { k with east := { k.east with waiting := false, go := true } }
      else { k with west := { k.west with waiting := false, go := true } }

/-- The waiters that a count frees from the front of a line, those left, and the count left (R232). -/
def freeCounter : List (Waiter × BitVec 24 × Option (BitVec 8)) → BitVec 24 →
    List Waiter × List (Waiter × BitVec 24 × Option (BitVec 8)) × BitVec 24
  | [], n => ([], [], n)
  | (w, want, g) :: r, n =>
    if want ≤ n then
      let (f, l, m) := freeCounter r (n - want)
      (w :: f, l, m)
    else ([], (w, want, g) :: r, n)

/-- Examines the line of a counter-mode tally (R232). -/
def examine (d : Dev) (k : Nat) : Dev :=
  let y := tallyOf d k
  let (f, l, n) := freeCounter y.line y.count
  f.foldl (fun d w => wake d false w) (tallySet d k { y with line := l, count := n })

/-- Examines every line after waiters have left some of them: the new first waiter goes on when its count is there (R226, R232). -/
def reexamine (d : Dev) : Dev :=
  (d.tallies.map (·.1)).foldl (fun d k =>
    let y := tallyOf d k
    if y.inuse && !y.barrier && !y.line.isEmpty then examine d k else d) d

/-! ### Faults -/

/-- A task faults: the earliest fault stands, its runs stop, dispatch stops (R214). The graph records a late fault of a completed task
against it (log entry 39, DEDUCED). -/
def taskFail (d : Dev) (x t unit code : Nat) (detail : Word) : Dev :=
  match taskOf d x t with
  | none => d
  | some s =>
    match s.phase with
    | .running =>
      let d := taskUpd d x t fun s => { s with fault := s.fault.or (some (code, unit, detail)) }
      reexamine ((s.started.filter (runs d x t)).foldl stopInst (graphFault d x code t unit detail))
    | .done _ => graphFault d x code t unit detail
    | _ => d

/-- The fault of the run on a core. -/
def coreFault (d : Dev) (c code : Nat) (detail : Word) : Dev :=
  match (coreOf d c).inst with
  | none => d
  | some i => taskFail d i.ctx i.task c code detail

/-- BAD_INSTRUCTION, BAD_ADDRESS, BAD_TABLE with the instruction's address (R216). -/
def badInstruction (d : Dev) (c : Nat) : Dev := coreFault d c 0x1001 (coreOf d c).pc
def badAddress (d : Dev) (c : Nat) : Dev := coreFault d c 0x1002 (coreOf d c).pc
def badTable (d : Dev) (c : Nat) : Dev := coreFault d c 0x1003 (coreOf d c).pc

/-- Forms a fault record and queues it for the context's fault ring (R258, R259, R351). -/
def formFault (d : Dev) (kind x : Nat) (write core prot : Bool) (va unit slot : Nat) : Nat × Dev :=
  let id := d.nextFault
  let r : FaultRec := ⟨kind, x, write, core, prot, id, va, unit, slot, d.otime.count⟩
  let d := { d with nextFault := (id + 1) % 2 ^ 32 }
  (id, sqUpd (ctxUpd d x fun k => { k with faults := k.faults ++ [r] }) x fun q => { q with fqWait := q.fqWait ++ [r] })

/-- A core access meets a page fault: the core pauses at its instruction (R197). -/
def pauseCore (d : Dev) (c va : Nat) (prot write : Bool) : Dev :=
  match (coreOf d c).inst with
  | none => d
  | some i =>
    let (id, d) := formFault d 1 i.ctx write true prot va c 0xFFFF
    coreUpd d c fun k => { k with status := .paused, fault := some id }

/-- How a core's instruction goes on after an access: done, BAD_ADDRESS, paused, or RESOURCE_ABORT (R178, R197, R249). -/
def withAcc {α : Type} (c : Nat) (write : Bool) (r : Acc α) (go : α → Dev → Dev) : Dev :=
  match r with
  | .ok a d => go a d
  | .wait d => d
  | .bad d => badAddress d c
  | .page va p d => pauseCore d c va p write
  | .resource va d => coreFault d c 0x1052 (BitVec.ofNat 64 va)

/-! ### Executing an instruction -/

/-- The run whose next instruction a core may execute: it is running and not held. -/
def running (d : Dev) (c : Nat) : Option Inst :=
  let k := coreOf d c
  if k.status = .running ∧ k.held = false then k.inst else none

/-- An instruction of a core: one that the package does not have, or that cannot execute now, leaves all as it is (log entry 26,
DESIGN CHOICE). Log entry 65, DEDUCED. -/
def onCore (c : Nat) (s : State) (go : Dev → Core → Inst → Dev) : Host.Outcome State Fault Refusal :=
  if c < 256 then
    .next { s with dev := match running s.dev c with
      | some i => go s.dev (coreOf s.dev c) i
      | none => s.dev }
  else .next s

/-- An instruction that reads or writes memory as requester `req`: it waits while the requester is flagged (R168). -/
def onCoreMem (req c : Nat) (s : State) (go : Dev → Core → Inst → Dev) : Host.Outcome State Fault Refusal :=
  onCore c s fun d k i => if bankFlagged d c req then d else go d k i

/-- An instruction that waits until the vector queue of its core is empty (R181, R182). -/
def onCoreDrained (c : Nat) (s : State) (go : Dev → Core → Inst → Dev) : Host.Outcome State Fault Refusal :=
  onCore c s fun d k i => if k.vq.isEmpty then go d k i else d

/-- A vector instruction (R181): it executes when none waits before it and its memory requester, if it has one, is not flagged; else it
joins the queue and the scalar unit goes on, or waits while the queue is full. Log entry 5, DESIGN CHOICE. -/
def onVector (mem : Bool) (o : Instr) (c : Nat) (s : State) (go : Dev → Core → Inst → Dev) : Host.Outcome State Fault Refusal :=
  onCore c s fun d k i =>
    if k.vq.isEmpty && !(mem && bankFlagged d c 7) then go d k i
    else if k.vq.length < 16 then coreSet d c { k with vq := k.vq ++ [⟨o, k.x, k.pc⟩], pc := k.pc + 8 }
    else d

/-- The core as it is, one instruction further. -/
def retire (d : Dev) (c : Nat) (k : Core) : Dev := coreSet d c { k with pc := k.pc + 8 }

/-- Lets an effect on the rest of the block stand and retires. -/
def retireDev (d : Dev) (c : Nat) : Dev := coreUpd d c fun k => { k with pc := k.pc + 8 }

/-- Writes xd and goes on to the next instruction. -/
def retireX (d : Dev) (c : Nat) (rd : BitVec 5) (v : Word) : Dev := coreUpd d c fun k => { setX k rd v with pc := k.pc + 8 }

/-! ### Tally nodes -/

/-- Fields of a node reference (R224). -/
def refLevel (r : Word) : Nat := bits r.toNat 2 0
def refIndex (r : Word) : Nat := bits r.toNat 12 3
def refCluster (r : Word) : Nat := bits r.toNat 17 13
def refPackage (r : Word) : Nat := bits r.toNat 31 18

/-- Whether a reference is 0, none; bits 63:32 are reserved (R14, R224). -/
def refNone (r : Word) : Bool := decide (r.toNat % 2 ^ 32 = 0)

/-- This package's orchard index. -/
def ownIndex (d : Dev) : Nat := og d 0x3010 1

/-- The node that a reference names: cluster tallies at 1024·cluster + index, then die, hub and orchard nodes; none when the
reference breaks R224. -/
def nodeKey (r : Word) : Option Nat :=
  match refLevel r with
  | 1 => some (1024 * refCluster r + refIndex r)
  | 2 => if refIndex r < 64 ∧ refCluster r < 4 then some (32768 + 64 * refCluster r + refIndex r) else none
  | 3 => if refIndex r < 64 ∧ refCluster r = 0 then some (33024 + refIndex r) else none
  | 4 => if refIndex r < 512 ∧ refCluster r = 0 then some (33088 + refIndex r) else none
  | _ => none

/-- The reference of a node of this package, with the package's index. -/
def refOf (d : Dev) (k : Nat) : Word :=
  BitVec.ofNat 64 ((if k < 32768 then 1 + 8 * (k % 1024) + 2 ^ 13 * (k / 1024)
    else if k < 33024 then 2 + 8 * (k % 64) + 2 ^ 13 * ((k - 32768) / 64)
    else if k < 33088 then 3 + 8 * (k - 33024)
    else 4 + 8 * (k - 33088)) + 2 ^ 18 * ownIndex d)

/-- The node reference of a tally reference (R202). -/
def clusterRef (r : Nat) : Word := BitVec.ofNat 64 (1 + 8 * (r % 1024) + 2 ^ 13 * (r / 1024 % 32))

/-- The tally reference (R202) of a cluster tally's key. -/
def tallyRef (k : Nat) : Word := BitVec.ofNat 64 (k % 32768)

/-- The context that a node's tally belongs to: a cluster tally's is the holder of its cluster. -/
def nodeCtx (d : Dev) (k : Nat) : Option Nat :=
  if k < 32768 then holder d (k / 1024) else if (tallyOf d k).inuse then some (tallyOf d k).owner else none

/-- PATH of a tally node (R332). -/
def nodePath (d : Dev) (k : Nat) : Nat :=
  if k < 32768 then clusterPath d (k / 1024) 13 else if k < 33024 then diePath d ((k - 32768) / 64) 13 else hubPath d 31 31 22

/-- Charges a tally fault (R230). -/
def tallyFault (d : Dev) (k code : Nat) (m : TallyMsg) : Dev :=
  let detail := if k < 32768 then tallyRef k else refOf d k
  match m.charge with
  | .instruction x t c _ => taskFail d x t c code detail
  | .issued x t c => taskFail d x t c code detail
  | .successor x t => graphFault d x code t 0 detail
  | .channel x ch => graphFault d x 0x1073 0xFFFFFFFF 0 (BitVec.ofNat 64 ch)
  | .node => windfall d 0x0005 sCtx ((nodeCtx d k).getD 0xFF) (nodePath d k)
  | .package => windfall d 0x0005 sCtx ((nodeCtx d k).getD 0xFF) (nodePath d k)
  | .logged => windfall d 0x0005 sCtx ((nodeCtx d k).getD 0xFF) (nodePath d k)

/-- An instruction's operation that the node refuses (R229): BAD_ADDRESS or BAD_INSTRUCTION with the instruction's address (R216). A free
tally is no fault of a logged operation. Log entry 67, DEDUCED. -/
def refusedAt (d : Dev) (k code : Nat) (m : TallyMsg) : Dev :=
  match m.charge with
  | .instruction x t c pc => taskFail d x t c code pc
  | .logged => if code = 0x1001 then tallyFault d k code m else d
  | _ => d

/-- The KIND of a train with a tally operation, and of one that asks for bytes: two of 0x11 and 0x13 to 0x1F. -/
def routedKind (i : Nat) : Nat := if i % 14 = 0 then 0x11 else 0x12 + i % 14
def tallyKind : Nat := routedKind Config.tallyKind
def readKind : Nat := routedKind (Config.tallyKind + 1 + Config.readKind % 13)

/-- A routed train of one flit: KIND, CTX, DEST and SRC; the manual does not lay out the rest, which is free (R292, R321). -/
def requestTrain (d : Dev) (kind ctx dest n : Nat) : List Byte :=
  toLE 1 kind ++ toLE 1 ctx ++ toLE 2 0 ++ toLE 2 dest ++ toLE 2 (ownIndex d) ++ [0] ++ openBytes n 55

/-- Sends a message toward a node: within the package it is on its way until it is delivered; toward another package it leaves as a
routed train in the class of barrier traffic, or is a ROUTE_LOST where none can leave (R170, R304, R323). Log entry 128, DESIGN CHOICE. -/
def sendTally (d : Dev) (outside : Bool) (m : TallyMsg) : Dev :=
  if outside then
    let (n, d) := (d.free, { d with free := d.free + 55 })
    let t := requestTrain d tallyKind m.ctx (refPackage m.node) n
    match routePort d t with
    | some p => queueTrain d p { newTrain 2 m.ctx 1 (setByte t 8 1) with msg := some m }
    | none => windfall d 0x0014 sCtx m.ctx (hubPath d 31 31 20)
  else { d with inflight := d.inflight ++ [m] }

/-- A barrier-mode tally releases: its generation rises, the release goes back along each path in order, its waiters go on (R227,
R232, R236). -/
def releaseNode (d : Dev) (k : Nat) : Dev :=
  let y := tallyOf d k
  let gen := y.gen + 1
  let goes (w : Waiter × BitVec 24 × Option (BitVec 8)) : Bool := w.2.2.isSome && decide (w.2.2 ≠ some gen)
  let freed := (y.line.filter goes).map (·.1)
  let left := y.line.filter fun w => !goes w
  let d := tallySet d k { y with gen := gen, count := 0, up := false, paths := [], line := left }
  let d := y.paths.foldl (fun d p => sendTally d (decide (refPackage p ≠ ownIndex d))
    ⟨p, .release, .node, (nodeCtx d k).getD 0xFF, refOf d k⟩) d
  freed.foldl (fun d w => wake d true w) d

/-- An arrival at a barrier-mode tally (R227, R236). Log entry 68, DEDUCED. -/
def arriveAt (d : Dev) (k : Nat) (m : TallyMsg) : Dev :=
  let y := tallyOf d k
  if y.up then tallyFault d k 0x1032 m
  else
    let y := { y with count := y.count + 1, paths := if m.path = 0 then y.paths else y.paths ++ [m.path] }
    if y.count.toNat < y.p.toNat then tallySet d k y
    else if refNone y.parent then releaseNode (tallySet d k y) k
    else
      sendTally (tallySet d k { y with up := true })
        (decide (refLevel y.parent = 4) && decide (refPackage y.parent ≠ ownIndex d))
        ⟨y.parent, .arrive, .node, (nodeCtx d k).getD 0xFF, refOf d k⟩

/-- SIGNAL n at a counter-mode tally (R226). -/
def signalAt (d : Dev) (k : Nat) (n : BitVec 24) (m : TallyMsg) : Dev :=
  let y := tallyOf d k
  if y.count.toNat + n.toNat ≤ 0xFFFFFF then examine (tallySet d k { y with count := y.count + n }) k
  else tallyFault d k 0x1032 m

/-- DEC n at a counter-mode tally (R226). -/
def decAt (d : Dev) (k : Nat) (n : BitVec 24) (m : TallyMsg) : Dev :=
  let y := tallyOf d k
  if n ≤ y.count then tallySet d k { y with count := y.count - n } else tallyFault d k 0x1031 m

/-- Whether an operation comes from an instruction, which does not adapt to the tally's mode (R228). -/
def fromInstruction (m : TallyMsg) : Bool := match m.charge with | .instruction _ _ _ _ => true | .logged => true | _ => false

/-- The operation of a message at an in-use tally, hardware sources adapting to its mode (R226 to R228). -/
def performAt (d : Dev) (k : Nat) (m : TallyMsg) : Dev :=
  let y := tallyOf d k
  match m.op with
  | .signal n =>
    if !y.barrier then signalAt d k n m
    else if fromInstruction m then (if n = 0 then d else refusedAt d k 0x1001 m) else arriveAt d k m
  | .decr n => if !y.barrier then decAt d k n m else if n = 0 then d else refusedAt d k 0x1001 m
  | .arrive => if y.barrier then arriveAt d k m else if fromInstruction m then refusedAt d k 0x1001 m else signalAt d k 1 m
  | .release => if y.barrier && y.up then releaseNode d k else d

/-- Appends to the signal log of a harvest; beyond 4,096 entries it is lost with a windfall (R241). -/
def logSignal (d : Dev) (x : Nat) (m : TallyMsg) : Dev :=
  if (ctxOf d x).log.length < 4096 then ctxUpd d x fun k => { k with log := k.log ++ [m] }
  else windfall d 0x0006 sCtx x (hubPath d 31 31 26)

/-- What reading the record of a tally does: those of the hub lie in its SRAM (R156, R330). Log entry 146, DESIGN CHOICE. -/
def nodeRead (d : Dev) (k : Nat) : Dev := if 33024 ≤ k then eccRead d packageReader (hubKey (16 * (k - 33024))) 16 else d

/-- A message takes effect at a node: frozen contexts drop it, a harvest logs those of cluster tallies, a free tally discards it, which
refuses an instruction (R229, R240, R241, R337). -/
def deliver (d : Dev) (k : Nat) (m : TallyMsg) : Dev :=
  let d := nodeRead d k
  match nodeCtx d k with
  | none => d
  | some x =>
    if (ctxOf d x).state = .frozen then obump d 64 0x8010 8 1
    else if (ctxOf d x).harvesting ∧ k < 32768 then logSignal d x m
    else if (tallyOf d k).inuse then performAt d k m
    else refusedAt (if k < 32768 then obump d 32 (0x5000 + 16 * x) 13 1 else d) k 0x1002 m

/-- An operation by a unit of cluster `cl` on a cluster tally: at once at its own cluster's node, else as a message on the path of its
writes (R228, R234). -/
def tallyFrom (d : Dev) (cl key : Nat) (m : TallyMsg) : Dev := if key / 1024 = cl then deliver d key m else sendTally d false m

/-- A hardware signal to a tally reference, 0xFFFF for none (R228). -/
def hwSignal (d : Dev) (cl ref : Nat) (n : Nat) (charge : Charge) (x : Nat) : Dev :=
  if ref = 0xFFFF then d
  else tallyFrom d cl (ref % 32768) ⟨clusterRef ref, .signal (BitVec.ofNat 24 n), charge, x, 0⟩

/-- Tallies in use of a context, on its clusters and in the tree (R239, R240). -/
def talliesInUse (d : Dev) (x : Nat) : Nat :=
  (d.tallies.filter fun e => e.2.inuse && decide (e.2.owner = x)).length

/-- Whether a waiter stalls a queue: a graph unit's watch stalls none (R228). -/
def stalls (w : Waiter) : Bool := match w with | .start _ _ => false | _ => true

/-- Whether any queue waits on a tally, or its barrier is under way: R237 refuses to drop or rewrite it then. -/
def tallyBusy (y : Tally) : Bool := (y.line.any fun w => stalls w.1) || y.up || (y.barrier && decide (y.count ≠ 0))

end Sys2Proof.Machine
end

