-- ==== Sys2Proof/Machine/VectorMem.lean ====
section
/-! DEFINITION. Vector memory operations (R144, R145, R190, R191, R195): VLD, VST, VLDS, VLDT, VDEC, VENC, VSEG; predicates and lane
LFSRs (R183, R186). -/

namespace Sys2Proof.Machine

/-- The governing predicate, and whether lane `l` is enabled (R183). -/
def predOf (k : Core) (f : Fields) : BitVec 128 := getP k f.pred
def on (p : BitVec 128) (l : Nat) : Bool := p.getLsbD l

/-- Runs of consecutive enabled lanes: first lane and count. -/
def laneRuns (p : BitVec 128) : Nat → List (Nat × Nat)
  | 0 => []
  | n + 1 =>
    let r := laneRuns p n
    if on p n then
      match r.getLast? with
      | some (a, m) => if a + m = n then r.dropLast ++ [(a, m + 1)] else r ++ [(n, 1)]
      | none => [(n, 1)]
    else r

/-- A register with the enabled lanes of `new` and the other lanes of `old` (R183). -/
def merge (p : BitVec 128) (old new : Lanes) : Lanes :=
  packElems 32 128 fun l => if on p l then elemOf new 32 l else elemOf old 32 l

/-- Checks an access without performing it: its address, alignment and pages. -/
def operandProbe (d : Dev) (x c : Nat) (v : Word) (n : Nat) (write : Bool) : Acc Unit :=
  match placeOf v with
  | none => .bad d
  | some (.loc a) => if (localKey d c a n).isSome then .ok () d else .bad d
  | some (.va a) => if 2 ^ 52 < a + n then .bad d else (keysVa d x a n write).bind fun _ d => .ok () d

/-- Probes every run of a vector access. -/
def probeRuns (x c : Nat) (v : Word) (write : Bool) : List (Nat × Nat) → Dev → Acc Unit
  | [], d => .ok () d
  | (a, m) :: r, d => (operandProbe d x c (v + BitVec.ofNat 64 (4 * a)) (4 * m) write).bind fun _ d => probeRuns x c v write r d

/-- Reads the runs of a vector access into the bytes of a register. -/
def readRuns (x c : Nat) (v : Word) : List (Nat × Nat) → Nat → Dev → Acc Nat
  | [], acc, d => .ok acc d
  | (a, m) :: r, acc, d =>
    (operandRead d x c (v + BitVec.ofNat 64 (4 * a)) (4 * m) 1).bind fun bs d => readRuns x c v r (acc + leNat bs * 2 ^ (32 * a)) d

/-- Writes the runs of a vector access. -/
def writeRuns (x c : Nat) (v : Word) (bytes : List Byte) : List (Nat × Nat) → Dev → Acc Unit
  | [], d => .ok () d
  | (a, m) :: r, d =>
    (operandWrite d x c (v + BitVec.ofNat 64 (4 * a)) ((bytes.drop (4 * a)).take (4 * m)) 1).bind fun _ d => writeRuns x c v bytes r d

/-- VLD: 512 bytes at xs1 + imm, 64-byte aligned (R195). -/
def goVld (c : Nat) (f : Fields) (d : Dev) (k : Core) (i : Inst) : Dev :=
  let v := getX k f.rs1 + simm f
  let p := predOf k f
  let runs := laneRuns p 128
  if v.toNat % 64 ≠ 0 ∨ (placeOf v).isNone then badAddress d c
  else withAcc c false ((probeRuns i.ctx c v false runs d).bind fun _ d => readRuns i.ctx c v runs 0 d) fun n d =>
    coreUpd d c fun k => { setV k f.rd (merge p (getV k f.rd) (BitVec.ofNat 4096 n)) with pc := k.pc + 8 }

def execVld (c : Nat) (f : Fields) (s : State) : Host.Outcome State Fault Refusal := onVector true (.vld c f) c s (goVld c f)

/-- VST: the enabled lanes of vs2 (R183, R195). -/
def goVst (c : Nat) (f : Fields) (d : Dev) (k : Core) (i : Inst) : Dev :=
  let v := getX k f.rs1 + simm f
  let runs := laneRuns (predOf k f) 128
  if v.toNat % 64 ≠ 0 ∨ (placeOf v).isNone then badAddress d c
  else withAcc c true ((probeRuns i.ctx c v true runs d).bind fun _ d => writeRuns i.ctx c v (laneBytes (getV k f.rs2)) runs d)
    fun _ d => retireDev d c

def execVst (c : Nat) (f : Fields) (s : State) : Host.Outcome State Fault Refusal := onVector true (.vst c f) c s (goVst c f)

/-- The words of a strided read (R144): core-local, each within the memory of the first; none refuses it whole. -/
def stridedKeys (d : Dev) (c : Nat) (base : Word) (stride n : Nat) : Option (List Nat) :=
  match placeOf base with
  | some (.loc b) =>
    if b % 64 ≠ 0 ∨ 65535 < stride then none
    else match memOf b with
      | none => none
      | some m =>
        if b + 64 * (n - 1) * stride + 64 ≤ memEnd d c m then
          (List.range n).mapM fun i => localKey d c (b + 64 * i * stride) 64
        else none
  | _ => none

/-- Reads 64-byte words, with their error correction. -/
def readWords (d : Dev) (x : Nat) (keys : List Nat) : List Byte × Dev :=
  (keys.flatMap fun k => memBytes d k 64, keys.foldl (fun d k => eccRead d x k 64) d)

/-- VLDS: 8 words at a stride of xs2 (R144, R195); a word whose 16 lanes are all disabled is not read (R183). -/
def goVlds (c : Nat) (f : Fields) (d : Dev) (k : Core) (i : Inst) : Dev :=
  match stridedKeys d c (getX k f.rs1 + simm f) (getX k f.rs2).toNat 8 with
  | none => badAddress d c
  | some keys =>
    let p := predOf k f
    let need := (List.range 8).filter fun w => (List.range 16).any fun l => on p (16 * w + l)
    let d' := (readWords d i.ctx (need.map fun w => keys.getD w 0)).2
    let bs := keys.flatMap fun k => memBytes d k 64
    coreUpd d' c fun k => { setV k f.rd (merge p (getV k f.rd) (bytesLanes bs)) with pc := k.pc + 8 }

def execVlds (c : Nat) (f : Fields) (s : State) : Host.Outcome State Fault Refusal := onVector true (.vlds c f) c s (goVlds c f)

/-- The transposed tile of 16 words (R145): result element 16·j + r is element 16·g + j of word r. -/
def transpose (w g : Nat) (words : Nat → Nat) : Nat :=
  packNat w (fun e => (words (e % 16) >>> (w * (16 * g + e / 16))) % 2 ^ w) 256

/-- Writes the `n` lowest lanes of a tile into a register, under the predicate; lanes beyond the tile stay (log entry 32, DEDUCED). -/
def putTile (k : Core) (p : BitVec 128) (r : BitVec 5) (n tile : Nat) : Core :=
  setV k r (packElems 32 128 fun l => if on p l && decide (l < n) then (tile >>> (32 * l)) % 2 ^ 32 else elemOf (getV k r) 32 l)

/-- VLDT: transposing read of a 16 × 16 tile (R145, R195); a word that no enabled lane takes an element from is not read (R183); a column group beyond the width, or v31 with w = 32, is
BAD_INSTRUCTION (log entry 32, DEDUCED). -/
def goVldt (c : Nat) (f : Fields) (d : Dev) (k : Core) (i : Inst) : Dev :=
  let w := 4 * 2 ^ immBits f 1 0
  let g := immBits f 6 2
  if 32 / w ≤ g ∨ (w = 32 ∧ f.rd = 31) then badInstruction d c
  else match stridedKeys d c (getX k f.rs1) (getX k f.rs2).toNat 16 with
    | none => badAddress d c
    | some keys =>
      let p := predOf k f
      let tile := transpose w g fun r => leNat (memBytes d (keys.getD r 0) 64)
      let need := (List.range 16).filter fun r => (List.range 16).any fun j => on p ((16 * j + r) * w / 32 % 128)
      let d := (readWords d i.ctx (need.map fun r => keys.getD r 0)).2
      coreUpd d c fun k =>
        let k := putTile k p f.rd (8 * w) tile
        let k := if w = 32 then putTile k p (f.rd + 1) 128 (tile >>> 4096) else k
        { k with pc := k.pc + 8 }

def execVldt (c : Nat) (f : Fields) (s : State) : Host.Outcome State Fault Refusal := onVector true (.vldt c f) c s (goVldt c f)

/-! ### Lane LFSRs -/

/-- The lane LFSRs after lane `l` steps `n l` times (R186). -/
def lanesAfter (s : BitVec 2048) (n : Nat → Nat) : BitVec 2048 :=
  BitVec.ofNat 2048 (packNat 16 (fun l => (lfsrSteps (n l) (laneLfsr s l)).toNat) 128)

/-- The random value of the `j`-th element of lane `l`: the state after its step (R186). -/
def laneRandom (s : BitVec 2048) (l j : Nat) : Nat := (lfsrSteps (j + 1) (laneLfsr s l)).toNat

/-- The rounding of RM; `r` is the random value (R179, R186); none for RM 5 to 7 (R180). -/
def rmode (rm : BitVec 3) (r : Nat) : Option RMode :=
  match rm.toNat with
  | 0 => some .rne
  | 1 => some .rtz
  | 2 => some .rup
  | 3 => some .rdn
  | 4 => some (.sr r)
  | _ => none

/-! ### Blocks and segments -/

/-- The poison marks of bytes that a core has just read through an address operand (R427): those of its own copy of a cached line, else
those of memory. -/
def operandMarks (d : Dev) (x c : Nat) (v : Word) (n : Nat) : List Bool :=
  match placeOf v with
  | some (.loc a) => (match localKey d c a n with
    | some k => memMarks d k n
    | none => [])
  | some (.va a) => (List.range n).map fun j =>
      match dLineAt d c ((a + j) / 64) with
      | some _ => poisoned d (dcKey c ((a + j) / 64) + (a + j) % 64)
      | none => (match lineAt d (clOf c) ((a + j) / 64) with
        | some _ => poisoned d (ccKey (clOf c) ((a + j) / 64) + (a + j) % 64)
        | none => (match resolve d x (a + j) false with
          | .ok k _ => poisoned d k
          | _ => false))
  | none => []

/-- PATH of a core's decoder (R332). -/
def decoderPath (d : Dev) (c : Nat) : Nat := corePath d c 0 10

/-- Reads the blocks of enabled lanes of a tensor at rate 0: block bytes, none for a poisoned one. -/
def readBlocks (x c fmt : Nat) (base : Word) (j : Nat) (want : Nat → Bool) : Nat → Dev → Acc (List (Option (List Byte)))
  | 0, d => .ok [] d
  | n + 1, d =>
    (readBlocks x c fmt base j want n d).bind fun l d =>
      if want n then
        let v := base + BitVec.ofNat 64 (blockBytes fmt * (j + n))
        (operandRead d x c v (blockBytes fmt) 1).bind fun b d =>
          .ok (l ++ [if (operandMarks d x c v (blockBytes fmt)).any id then none else some b]) d
      else .ok (l ++ [none]) d

/-- Reads 4 blocks of a compressed tensor, logging the check events of those blocks (R125, R127). -/
def readCoded (d : Dev) (x c fmt rate : Nat) (base : Word) (j : Nat) : Acc (List (Option (List Byte))) :=
  let v := base + BitVec.ofNat 64 (j / 16 * segBytes fmt rate)
  (operandRead d x c v (segBytes fmt rate) 1).bind fun b d =>
    let marks := operandMarks d x c v (segBytes fmt rate)
    let r := readSegment fmt rate (ctxOf d x).tables b fun i => marks.getD i false
    let evs := r.events.filter fun e => decide (e = 0xFF) || (decide (j % 16 ≤ e) && decide (e < j % 16 + 4))
    .ok ((r.blocks.drop (j % 16)).take 4) (evs.foldl (fun d e => checkEvent d x (decoderPath d c) e v) d)

/-- Lane `l` of decoded blocks, with the NR of a NaR (R190); every element of a poisoned block is NaR (R126, R427). -/
def decodedLane (fmt : Nat) (blocks : List (Option (List Byte))) (l : Nat) : W32 × Half :=
  let v := match blocks.getD (l / 32) none with
    | some b => blockElem fmt b (l % 32)
    | none => .nar
  (valToF32 v, flagIf (decide (v = .nar)) fNR)

/-- The flags that decoding the enabled lanes of block `n` sets besides NR: none for a poisoned block. -/
def decodedFlags (fmt : Nat) (blocks : List (Option (List Byte))) (p : BitVec 128) (n : Nat) : Half :=
  match blocks.getD n none with
  | some b => blockFlags fmt b fun e => on p (32 * n + e)
  | none => 0

/-- VDEC: blocks xs2 to xs2 + 3 of the tensor at xs1 as exact binary32 (R190, R195). Log entry 60, DEDUCED. -/
def goVdec (c : Nat) (f : Fields) (d : Dev) (k : Core) (i : Inst) : Dev :=
  let fmt := immBits f 1 0
  let rate := immBits f 4 2
  let base := getX k f.rs1
  let j := (getX k f.rs2).toNat
  let p := predOf k f
  let want (n : Nat) : Bool := (List.range 32).any fun e => on p (32 * n + e)
  if fmt = 3 ∨ 4 < rate then badInstruction d c
  else if j % 4 ≠ 0 ∨ base.toNat % 64 ≠ 0 ∨ (placeOf base).isNone then badAddress d c
  else if p = 0 then retireDev d c
  else withAcc c false (if rate = 0 then readBlocks i.ctx c fmt base j want 4 d else readCoded d i.ctx c fmt rate base j)
    fun blocks d =>
      let fl := (List.range 128).foldl (fun a l => if on p l then a ||| (decodedLane fmt blocks l).2 else a) (0 : Half)
      let bfl := (List.range 4).foldl (fun a n => if want n then
        a ||| decodedFlags fmt blocks p n else a) (0 : Half)
      let v := packElems 32 128 fun l => (decodedLane fmt blocks l).1.toNat
      let d := raise d i.ctx i.task c (fl ||| bfl)
      coreUpd d c fun k => { setV k f.rd (merge p (getV k f.rd) v) with pc := k.pc + 8 }

def execVdec (c : Nat) (f : Fields) (s : State) : Host.Outcome State Fault Refusal := onVector true (.vdec c f) c s (goVdec c f)

/-- y32 of an encoder with α = 1 and β = +0 (R66, R190). -/
def encY (w : W32) : W32 × Half := f32Add .rne w 0

/-- A group of 32 lanes as the encoder sees it: the enabled ones, rounding to nearest or with their lane's random value. -/
def encCols (p : BitVec 128) (v : Nat → W32) (sr : Bool) (rnd : Nat → Nat) (n : Nat) : List EncCol :=
  ((List.range 32).filter fun e => on p (32 * n + e)).map fun e =>
    ⟨e, f32Mag (v (32 * n + e)), if sr then .sr (rnd (32 * n + e)) else .rne⟩

/-- What encoding a group adds to the statistics record besides the histogram (R80, R190). -/
def encStat (r : Encoded) : Stats := { Stats.zero with scExtra := r.extra, blocks := 1, sidecars := b2n r.side }

/-- Writes the blocks of an encoder in order, none when one of them faults. -/
def writeBlocks (x c : Nat) : List (Word × List Byte) → Dev → Acc Unit
  | [], d => .ok () d
  | (v, b) :: r, d => (operandWrite d x c v b 1).bind fun _ d => writeBlocks x c r d

def probeBlocks (x c : Nat) : List (Word × List Byte) → Dev → Acc Unit
  | [], d => .ok () d
  | (v, b) :: r, d => (operandProbe d x c v b.length true).bind fun _ d => probeBlocks x c r d

/-- VENC: the lanes of RD as four blocks at xs1 (R190, R195); RM is 0 or 4 (log entry 33, DEDUCED). -/
def goVenc (c : Nat) (f : Fields) (d : Dev) (k : Core) (i : Inst) : Dev :=
  let fmt := immBits f 1 0
  let t := immBits f 4 2
  let base := getX k f.rs1
  let j := (getX k f.rs2).toNat
  let p := predOf k f
  let sr := decide (f.rm = 4)
  if fmt = 3 ∨ (f.rm ≠ 0 ∧ f.rm ≠ 4) then badInstruction d c
  else if j % 4 ≠ 0 ∨ base.toNat % 64 ≠ 0 ∨ (placeOf base).isNone then badAddress d c
  else
    let y (l : Nat) : W32 := (encY (lane (getV k f.rd) l)).1
    let ns := (List.range 4).filter fun n => (List.range 32).any fun e => on p (32 * n + e)
    let encs := ns.map fun n => (base + BitVec.ofNat 64 (blockBytes fmt * (j + n)),
      encodeBlock fmt t (bit f.imm.toNat 5) (encCols p y sr (fun l => laneRandom k.lfsr l 0) n))
    let out := encs.map fun e => (e.1, e.2.bytes)
    withAcc c true ((probeBlocks i.ctx c out d).bind fun _ d => writeBlocks i.ctx c out d) fun _ d =>
      let lanes := (List.range 128).filter fun l => on p l
      let fl := lanes.foldl (fun a l => a ||| (encY (lane (getV k f.rd) l)).2) (encs.foldl (fun a e => a ||| e.2.flags) (0 : Half))
      let st := lanes.foldl (fun a l => Stats.sum a (binStat (binF32 (y l))))
        (encs.foldl (fun a e => Stats.sum a (encStat e.2)) Stats.zero)
      let d := count (raise d i.ctx i.task c fl) i.ctx i.task st
      coreUpd d c fun k => { k with lfsr := if sr then lanesAfter k.lfsr fun _ => 1 else k.lfsr, pc := k.pc + 8 }

def execVenc (c : Nat) (f : Fields) (s : State) : Host.Outcome State Fault Refusal := onVector true (.venc c f) c s (goVenc c f)

/-- Whether VSEG may use a slot (R191). -/
def slotServes (d : Dev) (x slot : Nat) (tb2 : Bool) : Option CodeTable :=
  match look none (ctxOf d x).tables slot with
  | some t => if t.kind = (if tb2 then 1 else 0) then some t else none
  | none => none

/-- VSEG: 16 decoded blocks at xs1 as one segment at xs2; RD receives LOSSY (R191, R129 to R131). A core that a freeze holds stops before
the segment write (R198). -/
def goVseg (c : Nat) (f : Fields) (d : Dev) (k : Core) (i : Inst) : Dev :=
  let slot := immBits f 5 0
  let rate := immBits f 8 6
  let tb2 := bit f.imm.toNat 9
  let fmt := if tb2 then 2 else if bit f.imm.toNat 10 then 1 else 0
  let src := getX k f.rs1
  let dst := getX k f.rs2
  let n := 16 * blockBytes fmt
  if 4 < rate then badInstruction d c
  else if rate ≠ 0 ∧ (slotServes d i.ctx slot tb2).isNone then badTable d c
  else
    withAcc c false (operandRead d i.ctx c src n 1) fun b d =>
      let marks := operandMarks d i.ctx c src n
      let w := blockBytes fmt
      let blocks := (List.range 16).map fun i =>
        if ((List.range w).any fun q => marks.getD (i * w + q) false) then poisonedBlock fmt else (b.drop (i * w)).take w
      let r : List Byte × Nat × Bool := match slotServes d i.ctx slot tb2 with
        | some t => if rate = 0 then (blocks.flatten, 0, false) else encodeSegment fmt rate slot t blocks
        | none => (blocks.flatten, 0, false)
      if (coreOf d c).held then d
      else withAcc c true (operandWrite d i.ctx c dst r.1 1) fun _ d =>
        retireX (raise d i.ctx i.task c (flagIf r.2.2 fZB ||| flagIf (decide (0 < r.2.1)) fLY)) c f.rd (BitVec.ofNat 64 r.2.1)

def execVseg (c : Nat) (f : Fields) (s : State) : Host.Outcome State Fault Refusal := onVector true (.vseg c f) c s (goVseg c f)

/-! ### Words that queued instructions use (R181) -/

/-- The ranges of addresses that a queued vector instruction reads or writes; none where it may be any (VADAMW, whose arrays its
descriptor names). -/
def vectorRanges (e : VIns) : Option (List (Nat × Nat)) :=
  let at_ (r : BitVec 5) : Nat := if r = 0 then 0 else (look 0 e.x r.toNat).toNat
  let words (base stride n : Nat) : List (Nat × Nat) := (List.range n).map fun i => (base + 64 * i * stride, 64)
  match e.instr with
  | .vld _ f | .vst _ f => some [((BitVec.ofNat 64 (at_ f.rs1) + simm f).toNat, 512)]
  | .vlds _ f => some (words (BitVec.ofNat 64 (at_ f.rs1) + simm f).toNat (at_ f.rs2) 8)
  | .vldt _ f => some (words (at_ f.rs1) (at_ f.rs2) 16)
  | .vdec _ f =>
    let fmt := immBits f 1 0
    let rate := immBits f 4 2
    some [if rate = 0 then (at_ f.rs1 + blockBytes fmt * at_ f.rs2, 4 * blockBytes fmt)
      else (at_ f.rs1 + at_ f.rs2 / 16 * segBytes fmt rate, segBytes fmt rate)]
  | .venc _ f => let fmt := immBits f 1 0; some [(at_ f.rs1 + blockBytes fmt * at_ f.rs2, 4 * blockBytes fmt)]
  | .vseg _ f =>
    let fmt := if bit f.imm.toNat 9 then 2 else 0
    some [(at_ f.rs1, 16 * blockBytes fmt), (at_ f.rs2, segBytes fmt (immBits f 8 6))]
  | .vadamw _ _ => none
  | _ => some []

/-- Whether a queued vector instruction of a core reads or writes the 64-byte word of an address (log entry 135, DEDUCED). -/
def usedByQueue (k : Core) (v : Word) : Bool :=
  k.vq.any fun e => match vectorRanges e with
    | none => true
    | some l => l.any fun r => decide (r.1 / 64 ≤ v.toNat / 64) && decide (v.toNat / 64 * 64 < r.1 + r.2)

end Sys2Proof.Machine
end

