-- ==== Sys2Proof/Machine/DmaUnit.lean ====
section
/-! DEFINITION. DMA (R255 to R260): DISSUE, pieces, completion, and the replies to page faults. -/

namespace Sys2Proof.Machine

/-- Reads a DMA descriptor (R255). -/
def parseDma (b : List Byte) (seq c : Nat) (i : Inst) : Dma :=
  let ctrl := fld b 1 1
  { seq := seq, core := c, ctx := i.ctx, task := i.task, op := fld b 0 1, rate := ctrl % 8, tb2 := bit ctrl 3, done := fld b 2 2,
    signalN := fld b 4 2, rows := fld b 6 2, src := BitVec.ofNat 64 (fld b 8 8), dst := BitVec.ofNat 64 (fld b 16 8),
    len := fld b 24 8, srcPitch := fld b 32 8, dstPitch := fld b 40 8, row := 0, off := 0, fault := none, held := false }

/-- Block format of an EXPAND; QB4 and PB4 decode alike. -/
def Dma.fmt (s : Dma) : Nat := if s.tb2 then 2 else 0

/-- Bytes of a row at the source and at the destination. -/
def Dma.srcBytes (s : Dma) : Nat := if s.op = 2 then cdiv s.len 16 * segBytes s.fmt s.rate else s.len
def Dma.dstBytes (s : Dma) : Nat := if s.op = 2 then s.len * blockBytes s.fmt else s.len

/-- Whether every row of an operand is addressable: core-local rows within R137, device virtual rows below 2^52 (R178, R256). -/
def rowsOk (d : Dev) (c : Nat) (v : Word) (rows pitch n : Nat) : Bool :=
  match placeOf v with
  | none => false
  | some (.loc a) => (List.range rows).all fun r => (localKey d c (a + r * pitch) n).isSome
  | some (.va a) => decide (a + (rows - 1) * pitch + n ≤ 2 ^ 52)

/-- Whether a descriptor keeps R255 (R256). -/
def dmaOk (d : Dev) (s : Dma) : Bool :=
  decide (1 ≤ s.op) && decide (s.op ≤ 3) && (decide (s.op ≠ 2) || decide (s.rate ≤ 4)) &&
    (decide (s.done = 0xFFFF) || (bit (maskOf d s.ctx) (refCl s.done) && decide (1 ≤ s.signalN))) && decide (1 ≤ s.rows) &&
    decide (1 ≤ s.len) && (if s.op = 2 then decide (s.len ≤ 2 ^ 24) else decide (s.len ≤ 2 ^ 32)) &&
    (decide (s.op ≠ 3) || decide (s.len % 4 = 0)) && (decide (s.op = 3) || rowsOk d s.core s.src s.rows s.srcPitch s.srcBytes) &&
    rowsOk d s.core s.dst s.rows s.dstPitch s.dstBytes

def dmaAt (d : Dev) (cl slot : Nat) : Option Dma := look none (clusterOf d cl).dma slot
def dmaSet (d : Dev) (cl slot : Nat) (v : Option Dma) : Dev := clusterUpd d cl fun k => { k with dma := put none k.dma slot v }

/-- The lowest free slot of a cluster (R256). -/
def freeSlot (d : Dev) (cl : Nat) : Option Nat := (List.range 256).find? fun n => decide (dmaAt d cl n = none)

/-- One above the newest descriptor's place in the order of issue. -/
def nextSeq (d : Dev) (cl : Nat) : Nat :=
  (clusterOf d cl).dma.foldl (fun n e => match e.2 with | some s => max n (s.seq + 1) | none => n) 0

/-- DISSUE (R255, R256): the status says what became of the descriptor. -/
def execDissue (c : Nat) (f : Fields) (s : State) : Host.Outcome State Fault Refusal :=
  onCoreMem 8 c s fun d k i =>
    let addr := getX k f.rs1
    if k.vq ≠ [] then d
    else match operandRead d i.ctx c addr 64 64 with
    | .bad d => retireX d c f.rd 0x0201
    | .wait d => d
    | .page va p d => pauseCore d c va p false
    | .resource va d => coreFault d c 0x1052 (BitVec.ofNat 64 va)
    | .ok b d =>
      let t := parseDma b (nextSeq d (clOf c)) c i
      if !dmaOk d t then retireX d c f.rd 0x0201
      else match freeSlot d (clOf c) with
        | none => retireX d c f.rd 0x0303
        | some n => retireX (dmaSet d (clOf c) n (some t)) c f.rd 0

/-! ### Pieces -/

/-- Whether descriptors of a context may move: neither frozen, nor harvested, nor stopped by force (R265, R337). -/
def dmaMay (d : Dev) (x : Nat) : Bool :=
  let k := ctxOf d x
  match k.state with
  | .idle => true
  | .running => true
  | .preempting => !k.harvesting && decide (k.hkind < 2)
  | _ => false

/-- Whether a descriptor is among the 8 that its core's unit runs (R257). -/
def admitted (d : Dev) (cl : Nat) (s : Dma) : Bool :=
  decide (((clusterOf d cl).dma.filter fun e => match e.2 with
    | some t => decide (t.core = s.core) && decide (t.seq < s.seq)
    | none => false).length < 8)

/-- Whether a descriptor has a piece to move now: it is admitted, not paused, not held, and its context lets it. -/
def dmaLive (d : Dev) (cl : Nat) (s : Dma) : Bool :=
  s.fault.isNone && !s.held && decide (s.row < s.rows) && dmaMay d s.ctx && admitted d cl s

/-- Whose turn it is among the descriptors of a core that have a piece to move, by place in the order of issue: round robin from the one
after the last served (R257). -/
def dmaNext (d : Dev) (cl c : Nat) : Option Nat :=
  let seqs := (clusterOf d cl).dma.filterMap fun e => e.2.bind fun t => if t.core = c ∧ dmaLive d cl t then some t.seq else none
  let first (l : List Nat) : Option Nat := l.foldl (fun b n => some (match b with | some m => min m n | none => n)) none
  (first (seqs.filter fun n => decide (look 0 (clusterOf d cl).turns (c % 8) ≤ n))).or (first seqs)

/-- The turn passes on from a descriptor. -/
def dmaServed (d : Dev) (cl : Nat) (s : Dma) : Dev :=
  clusterUpd d cl fun k => { k with turns := put 0 k.turns (s.core % 8) (s.seq + 1) }

/-- Whether a flagged requester keeps a side of a piece waiting: the fabric port and the queues of HBM for device virtual memory (R168);
or the host's Bus Master Enable (R345). -/
def dmaWaits (d : Dev) (s : Dma) (v : Word) (n : Nat) : Bool :=
  match placeOf v with
  | some (.va a) => fabricFlaggedAt d s.core 1 || hbmWaits d s.ctx 1 a n || hostWaits d s.ctx a n
  | _ => false

/-- The address of a byte of the current row. -/
def Dma.at (base : Word) (pitch row off : Nat) : Word := base + BitVec.ofNat 64 (row * pitch + off)

/-- Bytes up to the next 64 KiB boundary. -/
def room64 (v : Word) : Nat := 65536 - v.toNat % 65536

/-- Reads an operand of a DMA, past all caches: bytes and poison marks (R154, R427). -/
def dmaRead (d : Dev) (x c : Nat) (v : Word) (n : Nat) : Acc (List Byte × List Bool) :=
  match placeOf v with
  | none => .bad d
  | some (.loc a) => (match localKey d c a n with
    | none => .bad d
    | some k => .ok (memBytes d k n, memMarks d k n) (eccRead d x k n))
  | some (.va a) => (keysVa d x a n false).bind fun l d => .ok (rangesBytes d l, rangesMarks d l) (rangesEcc d x l)

/-- Writes pieces of a device virtual range in order, stopping at the first page that faults (R258). -/
def writePieces (x : Nat) : List (Nat × Nat) → List Byte → List Bool → Dev → Acc Unit
  | [], _, _, d => .ok () d
  | (va, n) :: r, bs, ms, d =>
    (resolve d x va true).bind fun k d =>
      writePieces x r (bs.drop n) (ms.drop n) (poisonFrom (memWrite d x k (bs.take n)) k (ms.take n))

/-- Writes an operand of a DMA with the poison marks that its bytes carry. -/
def dmaWrite (d : Dev) (x c : Nat) (v : Word) (bs : List Byte) (ms : List Bool) : Acc Unit :=
  match placeOf v with
  | none => .bad d
  | some (.loc a) => (match localKey d c a bs.length with
    | none => .bad d
    | some k => .ok () (poisonFrom (memWrite d x k bs) k ms))
  | some (.va a) => writePieces x (splitVa (bs.length / 65536 + 2) a bs.length) bs ms d

/-- Moves the cursor by `n`. -/
def Dma.advance (s : Dma) (n : Nat) : Dma := if s.off + n < s.len then { s with off := s.off + n } else { s with off := 0, row := s.row + 1 }

/-- Ends a descriptor whose access cannot go on, and faults its task (R249, R260). -/
def dmaAbort (d : Dev) (cl slot code : Nat) (s : Dma) (va : Nat) : Dev :=
  taskFail (dmaSet d cl slot none) s.ctx s.task s.core code (BitVec.ofNat 64 va)

/-- Goes on after an access of a piece: a page fault pauses the descriptor with a fault record (R258). -/
def withDma {α : Type} (cl slot : Nat) (s : Dma) (write : Bool) (r : Acc α) (go : α → Dev → Dev) : Dev :=
  match r with
  | .ok a d => go a d
  | .wait d => d
  | .bad d => dmaAbort d cl slot 0x1002 s 0
  | .page va p d =>
    let (id, d) := formFault d 1 s.ctx write false p va s.core slot
    dmaSet d cl slot (some { s with fault := some id })
  | .resource va d => dmaAbort d cl slot 0x1052 s va

/-- One segment of an EXPAND: its decoded blocks, poisoned ones in the form of R126, with the check events of those written (R125, R127).
Log entry 76, DEDUCED. -/
def expandSegment (d : Dev) (s : Dma) (v : Word) (b : List Byte) (ms : List Bool) (n : Nat) : List Byte × Dev :=
  let r := readSegment s.fmt s.rate (ctxOf d s.ctx).tables b fun i => ms.getD i false
  let evs := r.events.filter fun e => decide (e = 0xFF) || decide (e < n)
  (((List.range n).flatMap fun i => (r.blocks.getD i none).getD (poisonedBlock s.fmt)),
    evs.foldl (fun d e => checkEvent d s.ctx (corePath d s.core 0 10) e v) d)

/-- The next piece of a descriptor (R257). -/
def dmaPiece (d : Dev) (cl slot : Nat) : Dev :=
  match dmaAt d cl slot with
  | none => d
  | some s =>
    if !dmaLive d cl s ∨ dmaNext d cl s.core ≠ some s.seq ∨ bankFlagged d s.core 6 then d
    else
      let x := s.ctx
      let c := s.core
      if s.op = 2 then
        let n := min 16 (s.len - s.off)
        let src := Dma.at s.src s.srcPitch s.row (s.off / 16 * segBytes s.fmt s.rate)
        let dst := Dma.at s.dst s.dstPitch s.row (s.off * blockBytes s.fmt)
        if dmaWaits d s src (segBytes s.fmt s.rate) ∨ dmaWaits d s dst (n * blockBytes s.fmt) then d
        else withDma cl slot s false (dmaRead (dmaServed d cl s) x c src (segBytes s.fmt s.rate)) fun r d =>
          let (bs, d) := expandSegment d s src r.1 r.2 n
          withDma cl slot s true (dmaWrite d x c dst bs []) fun _ d => dmaSet d cl slot (some (s.advance n))
      else
        let src := Dma.at s.src s.srcPitch s.row s.off
        let dst := Dma.at s.dst s.dstPitch s.row s.off
        let n := min (min 4096 (s.len - s.off)) (if s.op = 1 then min (room64 src) (room64 dst) else room64 dst)
        if dmaWaits d s dst n ∨ (s.op = 1 ∧ dmaWaits d s src n) then d
        else if s.op = 1 then
          withDma cl slot s false (dmaRead (dmaServed d cl s) x c src n) fun r d =>
            withDma cl slot s true (dmaWrite d x c dst r.1 r.2) fun _ d => dmaSet d cl slot (some (s.advance n))
        else
          let bs := (List.range n).map fun i => BitVec.ofNat 8 (s.src.toNat >>> (8 * ((s.off + i) % 4)))
          withDma cl slot s true (dmaWrite (dmaServed d cl s) x c dst bs []) fun _ d => dmaSet d cl slot (some (s.advance n))

/-- A command at a cluster. -/
def atCluster (cl : Nat) (s : State) (go : Dev → Dev) : Host.Outcome State Fault Refusal :=
  if cl < 32 then .next { s with dev := go s.dev } else .next s

def execDmaPiece (cl slot : Nat) (s : State) : Host.Outcome State Fault Refusal := atCluster cl s fun d => dmaPiece d cl slot

/-- A finished descriptor performs its DONE_TALLY and frees its slot (R256, R257). -/
def dmaComplete (d : Dev) (cl slot : Nat) : Dev :=
  match dmaAt d cl slot with
  | none => d
  | some s =>
    if s.rows ≤ s.row ∧ (ctxOf d s.ctx).state ≠ .frozen then
      hwSignal (dmaSet d cl slot none) cl s.done s.signalN (.issued s.ctx s.task s.core) s.ctx
    else d

def execDmaComplete (cl slot : Nat) (s : State) : Host.Outcome State Fault Refusal := atCluster cl s fun d => dmaComplete d cl slot

/-! ### Replies (R260, R352) -/

/-- A command at a context. -/
def atCtx (x : Nat) (s : State) (go : Dev → Dev) : Host.Outcome State Fault Refusal :=
  if x < 64 then .next { s with dev := go s.dev } else .next s

/-- A host write to BAR0: it reaches a package whose endpoint is up, and wakes it (R345, R391). -/
def onBar0 (x : Nat) (s : State) (go : Dev → Dev) : Host.Outcome State Fault Refusal :=
  atCtx x s fun d => if hostUp d then go (wakeBy d 1) else d

/-- STALE_REPLIES counts up (R262). -/
def staleReply (d : Dev) (x : Nat) : Dev := ctxUpd d x fun k => { k with stale := if k.stale = 0xFFFF then 0xFFFF else k.stale + 1 }

/-- Takes a fault off the unanswered ones. -/
def answerFault (d : Dev) (x id : Nat) : Dev := ctxUpd d x fun k => { k with faults := k.faults.filter fun r => decide (r.id ≠ id) }

/-- The slot of the descriptor that a fault paused. -/
def pausedSlot (d : Dev) (cl id : Nat) : Option Nat :=
  ((clusterOf d cl).dma.find? fun e => match e.2 with | some s => decide (s.fault = some id) | none => false).map (·.1)

/-- RESUME: the access is tried again (R260). -/
def resumeFault (d : Dev) (x : Nat) (r : FaultRec) : Dev :=
  let d := answerFault d x r.id
  if r.core then coreUpd d r.unit fun k => if k.fault = some r.id then { k with status := .running, fault := none } else k
  else match pausedSlot d (clOf r.unit) r.id with
    | some n => (match dmaAt d (clOf r.unit) n with
      | some s => dmaSet d (clOf r.unit) n (some { s with fault := none })
      | none => d)
    | none => d

/-- ABORT: the access ends and the task faults with PAGE_ABORT (R260). -/
def abortFault (d : Dev) (x : Nat) (r : FaultRec) : Dev :=
  let d := answerFault d x r.id
  if r.core then coreFault (coreUpd d r.unit fun k => if k.fault = some r.id then { k with fault := none } else k) r.unit 0x1051
    (BitVec.ofNat 64 r.va)
  else match pausedSlot d (clOf r.unit) r.id with
    | some n => (match dmaAt d (clOf r.unit) n with
      | some s => dmaAbort d (clOf r.unit) n 0x1051 s r.va
      | none => d)
    | none => d

/-- A write to FAULT_REPLY (R352). -/
def faultReply (d : Dev) (x : Nat) (v : Word) : Dev :=
  let id := v.toNat % 2 ^ 32
  let action := v.toNat / 2 ^ 32
  match (ctxOf d x).faults.find? fun r => decide (r.id = id) with
  | none => staleReply d x
  | some r => if action = 1 then resumeFault d x r else if action = 2 then abortFault d x r else staleReply d x

def execResume (x : Nat) (v : Word) (s : State) : Host.Outcome State Fault Refusal := onBar0 x s fun d => faultReply d x v
def execAbort (x : Nat) (v : Word) (s : State) : Host.Outcome State Fault Refusal := onBar0 x s fun d => faultReply d x v

end Sys2Proof.Machine
end

