-- ==== Sys2Proof/Machine/Regions.lean ====
section
/-! DEFINITION. Circular regions (R146 to R150): records, pointer moves, RSET, RGET, RFLUSH, COMMIT, RELEASE. -/

namespace Sys2Proof.Machine

/-- Where a region number of core `c` is held in its cluster; none names no region (R146). -/
def regionKey (c num : Nat) : Option Nat :=
  let i := num % 64
  let m := num / 256 % 4
  if m = 3 then some i else if i < 16 then some (64 + 48 * (c % 8) + 16 * m + i) else none

def regionOf (d : Dev) (cl key : Nat) : Region := look Region.reset (clusterOf d cl).regions key
def regionSet (d : Dev) (cl key : Nat) (r : Region) : Dev :=
  clusterUpd d cl fun k => { k with regions := put Region.reset k.regions key r }

/-- Reading a region record meets the errors of its granules (R156). -/
def recordRead (d : Dev) (x cl key : Nat) : Dev := eccRead d x (recordKey cl key) 16

/-- A whole record is written: its marks go. -/
def recordWrite (d : Dev) (cl key : Nat) (r : Region) : Dev :=
  let d := regionSet d cl key r
  { d with poison := clearMarks d.poison (recordKey cl key / 8) 2, upset := clearMarks d.upset (recordKey cl key / 8) 2 }

/-- A region record as 16 bytes (R147). -/
def regionBytes (r : Region) : List Byte :=
  toLE 4 r.base ++ toLE 3 r.item ++
    toLE 1 (b2n r.valid + 2 * b2n r.opened + 4 * b2n r.taken + 8 * b2n r.discP + 16 * b2n r.discC + 32 * b2n r.trunc) ++
    toLE 2 r.cap ++ toLE 2 r.head ++ toLE 2 r.tail ++ toLE 2 r.count

/-- A region record from 16 bytes; `old` is the discarded taken item, which the record does not hold. -/
def parseRegion (b : List Byte) (old : Nat) : Region :=
  let st := fld b 7 1
  ⟨fld b 0 4, fld b 4 3, bit st 0, bit st 1, bit st 2, bit st 3, bit st 4, bit st 5, fld b 8 2, fld b 10 2, fld b 12 2, fld b 14 2, old⟩

/-- Whether every item of a region lies in a memory, in shared memory in the scratchpad part (R147, R151). -/
def itemsIn (d : Dev) (c m : Nat) (r : Region) : Bool :=
  decide (memOf r.base = some m) && decide (r.base + r.cap * r.item ≤ memEnd d c m)

/-- Whether RSET accepts a record for a region number (R147; log entry 29, DEDUCED). -/
def regionOk (d : Dev) (c num : Nat) (r : Region) : Bool :=
  (regionKey c num).isSome && decide (r.item % 4 = 0) && decide (4 ≤ r.item) && decide (r.item ≤ 1048576) && decide (1 ≤ r.cap) &&
    decide (r.base % 64 = 0) && decide (r.head < r.cap) && decide (r.tail < r.cap) && decide (r.count ≤ r.cap) &&
    itemsIn d c (num / 256 % 4) r

/-! ### Pointer moves (R148, R150) -/

/-- How a pointer move ends. -/
inductive Moved where
  | complete (r : Region)
  | truncated (r : Region)
  | overrun
  | underrun
  deriving DecidableEq, Repr

/-- A producer's write: whether it is performed, and the record (R148). -/
def produce (r : Region) : Moved :=
  if r.discP then .truncated r
  else if r.opened then .complete r
  else if r.count = r.cap then .overrun
  else .complete { r with opened := true }

/-- COMMIT (R148). -/
def commitItem (r : Region) : Moved :=
  if r.discP then .truncated { r with discP := false }
  else if r.count = r.cap ∧ r.opened = false then .overrun
  else .complete { r with tail := (r.tail + 1) % r.cap, count := r.count + 1, opened := false }

/-- A consumer's read (R148). -/
def consume (r : Region) : Moved :=
  if r.discC ∨ r.taken then .complete r
  else if r.count = 0 then .underrun
  else .complete { r with taken := true }

/-- RELEASE (R148). -/
def releaseItem (r : Region) : Moved :=
  if r.discC then .truncated { r with discC := false }
  else if r.taken = false ∧ r.count = 0 then .underrun
  else .complete { r with head := (r.head + 1) % r.cap, count := r.count - 1, taken := false }

/-- RFLUSH (R150). -/
def flushRegion (r : Region) : Moved :=
  let q := { r with head := r.tail, count := 0, taken := false, discC := r.discC || r.taken, old := if r.taken then r.head else r.old }
  if r.opened then .truncated { q with opened := false, discP := true, trunc := true } else .complete q

/-- Byte address of item `i` of a region. -/
def itemAddr (r : Region) (i : Nat) : Nat := r.base + i * r.item

/-- The item that a consumer reads: the taken one, or the old taken one after a flush (R148). -/
def takenItem (r : Region) : Nat := if r.discC then r.old else r.head

/-- Where `n` bytes of item `i` of a region lie: none beyond the item, or outside the parts of memory that are addressable (R137, R148). -/
def itemKey (d : Dev) (c : Nat) (r : Region) (i n : Nat) : Option Nat := if n ≤ r.item then localKey d c (itemAddr r i) n else none

/-! ### Operations -/

/-- FAULT_DETAIL of a region fault: the number and the cluster (R216). -/
def regionDetail (c num : Nat) : Word := BitVec.ofNat 64 (num % 2 ^ 32 + clOf c * 2 ^ 32)

/-- The channels that take from or deliver to a region of cluster shared memory (R219). -/
def channelHas (d : Dev) (x cl num : Nat) (source : Bool) : Bool :=
  decide (num / 256 % 4 = 3) && match (ctxOf d x).graph with
    | none => false
    | some g => g.accepted && g.chans.any fun h =>
      if source then decide (h.srcCl = cl) && decide (h.srcRg = num % 64) else decide (h.dstCl = cl) && decide (h.dstRg = num % 64)

/-- A pointer operation of an instruction: BAD_REGION where no valid region is named or a channel owns that side, else the move with
its status (R148, R149, R219). -/
def regionOp (c : Nat) (f : Fields) (side : Option Bool) (move : Region → Moved) (d : Dev) (k : Core) (i : Inst) : Dev :=
  let num := (getX k f.rs1).toNat % 2 ^ 32
  match regionKey c num with
  | none => coreFault d c 0x1021 (regionDetail c num)
  | some key =>
    let d := recordRead d i.ctx (clOf c) key
    let r := regionOf d (clOf c) key
    if !r.valid || (match side with | some b => channelHas d i.ctx (clOf c) num b | none => false) then
      coreFault d c 0x1021 (regionDetail c num)
    else match move r with
      | .complete r => retireX (regionSet d (clOf c) key r) c f.rd 0
      | .truncated r => retireX (regionSet d (clOf c) key r) c f.rd 1
      | .overrun => coreFault d c 0x1022 (regionDetail c num)
      | .underrun => coreFault d c 0x1023 (regionDetail c num)

/-- COMMIT and RELEASE wait for earlier vector instructions (R182). -/
def execCommit (c : Nat) (f : Fields) (s : State) : Host.Outcome State Fault Refusal :=
  onCoreDrained c s (regionOp c f (some false) commitItem)
def execRelease (c : Nat) (f : Fields) (s : State) : Host.Outcome State Fault Refusal :=
  onCoreDrained c s (regionOp c f (some true) releaseItem)
def execRflush (c : Nat) (f : Fields) (s : State) : Host.Outcome State Fault Refusal :=
  onCore c s (regionOp c f none flushRegion)

/-- RSET reads a record at xs2 and makes it the region's, empty and VALID (R147). -/
def execRset (c : Nat) (f : Fields) (s : State) : Host.Outcome State Fault Refusal :=
  onCoreMem 8 c s fun d k i =>
    let num := (getX k f.rs1).toNat % 2 ^ 32
    withAcc c false (operandRead d i.ctx c (getX k f.rs2) 16 1) fun b d =>
      let r := parseRegion b 0
      match regionKey c num with
      | none => coreFault d c 0x1021 (regionDetail c num)
      | some key =>
        if regionOk d c num r then
          retireDev (recordWrite d (clOf c) key { Region.reset with base := r.base, item := r.item, cap := r.cap, valid := true }) c
        else coreFault d c 0x1021 (regionDetail c num)

/-- RGET writes the record to xs2 (R147). -/
def execRget (c : Nat) (f : Fields) (s : State) : Host.Outcome State Fault Refusal :=
  onCoreMem 8 c s fun d k i =>
    let num := (getX k f.rs1).toNat % 2 ^ 32
    match regionKey c num with
    | none => coreFault d c 0x1021 (regionDetail c num)
    | some key =>
      let d := recordRead d i.ctx (clOf c) key
      withAcc c true (operandWrite d i.ctx c (getX k f.rs2) (regionBytes (regionOf d (clOf c) key)) 1) fun _ d => retireDev d c

end Sys2Proof.Machine
end

