-- ==== Sys2Proof/Machine/Matrix.lean ====
section
/-! DEFINITION. Issuing matrix commands: descriptors and their checks (R85 to R90, R96, R67, R69), and the cluster batcher (R97 to
R101). -/

namespace Sys2Proof.Machine

/-! ### Descriptors -/

/-- Reads a matrix command descriptor (R85); EXACT_FILL takes its own shape (R96). -/
def parseMat (b : List Byte) : MatDesc :=
  let op := fld b 0 1
  let ctrl := fld b 1 1
  let fmt := fld b 2 1
  let rate := fld b 3 1
  let mask := fld b 10 1 % 16
  let exact := decide (op = 2)
  let low := if bit mask 0 then 1 else if bit mask 1 then 2 else if bit mask 2 then 4 else if bit mask 3 then 8 else 1
  { opcode := op, accIn := bit ctrl 0, aCirc := bit ctrl 1 && !exact, outCirc := bit ctrl 2 && !exact, batch := bit ctrl 3 && !exact,
    aFmt := fmt % 4, bFmt := bits fmt 3 2, aRate := rate % 8, bRate := bits rate 6 4,
    m := if exact then 128 else fld b 4 2, k := if exact then 128 else fld b 6 2, n := if exact then 64 else fld b 8 2,
    mask := if exact then low else mask, done := fld b 12 2, aAddr := fld b 16 4, bAddr := fld b 20 4, outAddr := fld b 24 4,
    accAddr := fld b 28 4, ccbAddr := fld b 32 4, foldAddr := fld b 36 4, aScale := BitVec.ofNat 32 (fld b 40 4),
    bScale := BitVec.ofNat 32 (fld b 44 4) }

/-- Reads a converter control block (R67). -/
def parseCcb (b : List Byte) : Ccb :=
  let mode := fld b 13 1
  { alpha := BitVec.ofNat 32 (fld b 0 4), lo := BitVec.ofNat 32 (fld b 4 4), hi := BitVec.ofNat 32 (fld b 8 4), outFmt := fld b 12 1,
    sr := bit mode 0, biasEn := bit mode 1, i4full := bit mode 2, t := fld b 14 1 % 8, biasAddr := BitVec.ofNat 64 (fld b 16 8) }

/-- K-blocks and N-blocks (R86). -/
def kBlocks (m : MatDesc) : Nat := cdiv m.k 32
def nBlocks (m : MatDesc) : Nat := cdiv m.n 32

/-- Tile depth D and row period P (R83). -/
def depthOf (m : MatDesc) : Nat := if m.aFmt = 2 ∧ m.bFmt = 2 then 512 else 256
def periodOf (m : MatDesc) : Nat := if m.aFmt = 3 ∧ m.bFmt = 3 then 4 else if m.aFmt = 3 ∨ m.bFmt = 3 then 2 else 1

/-- TK and TN, and the engines of the mask in order (R91). -/
def kTiles (m : MatDesc) : Nat := cdiv m.k (depthOf m)
def nTiles (m : MatDesc) : Nat := cdiv m.n 64
def enginesOf (m : MatDesc) : List Nat := (List.range 4).filter fun g => bit m.mask g

/-- Bytes of `n` blocks or, for an F8 tensor, elements of rows of `k` (R86, R111). -/
def tensorBytes (fmt rate blocks elems : Nat) : Nat :=
  if fmt = 3 then elems else if rate = 0 then blocks * blockBytes fmt else cdiv blocks 16 * segBytes fmt rate

def aBytes (m : MatDesc) : Nat := tensorBytes m.aFmt m.aRate (m.m * kBlocks m) (m.m * m.k)
def bBytes (m : MatDesc) : Nat := tensorBytes m.bFmt m.bRate (m.n * kBlocks m) (m.n * m.k)

/-- Bytes of one output row (R86, R68). Log entry 136, DESIGN CHOICE: an OUT_FMT above 5 counts as 4-byte elements. -/
def outRow (m : MatDesc) (outFmt : Nat) : Nat :=
  if outFmt < 3 then nBlocks m * blockBytes outFmt else if outFmt = 3 then m.n else 4 * m.n

/-- Bytes of one row of A as an item of a circular region; none when it has no fixed size (R87, R136). -/
def aItem (m : MatDesc) : Option Nat :=
  if m.aFmt = 3 then some m.k
  else if m.aRate = 0 then some (kBlocks m * blockBytes m.aFmt)
  else if kBlocks m % 16 = 0 then some (kBlocks m / 16 * segBytes m.aFmt m.aRate)
  else none

/-- Whether a tensor of `n` bytes lies within one memory of `allowed`; nothing lies nowhere (R88; log entry 36, DEDUCED). -/
def tensorOk (d : Dev) (c a n : Nat) (allowed : List Nat) : Bool :=
  decide (n = 0) || match memOf a with
    | none => false
    | some m => allowed.contains m && decide (a + n ≤ memEnd d c m)

/-- Whether a circular region serves as an operand: it exists, its item is one row, and its items lie in addressable memory (R88, R137). -/
def circOk (d : Dev) (c num : Nat) (item : Option Nat) (allowed : List Nat) : Bool :=
  match regionKey c num, item with
  | some key, some n =>
    let r := regionOf d (clOf c) key
    r.valid && decide (r.item = n) && allowed.contains (num / 256 % 4) && itemsIn d c (num / 256 % 4) r
  | _, _ => false

/-- Whether the command uses the fold area (R92). -/
def folds (m : MatDesc) : Bool := decide (2 ≤ kTiles m) && decide (m.m ≠ 0) && decide (m.n ≠ 0)

/-- Order 4 of R88. -/
def alignedOk (m : MatDesc) : Bool :=
  (m.aCirc || decide (m.aAddr % 64 = 0)) && decide (m.bAddr % 64 = 0) && (m.outCirc || decide (m.outAddr % 64 = 0)) &&
    (!m.accIn || decide (m.accAddr % 64 = 0)) && (!folds m || decide (m.foldAddr % 64 = 0)) && decide (m.ccbAddr % 32 = 0)

/-- Order 5 of R88. -/
def operandsOk (d : Dev) (c : Nat) (m : MatDesc) (outFmt : Nat) : Bool :=
  let e := (enginesOf m).length
  (if m.aCirc then circOk d c m.aAddr (aItem m) [1, 3] && decide (m.k ≤ depthOf m) && decide (nTiles m ≤ e)
    else tensorOk d c m.aAddr (aBytes m) [1, 3]) &&
    tensorOk d c m.bAddr (bBytes m) [0, 3] &&
    (if m.outCirc then circOk d c m.outAddr (some (outRow m outFmt)) [0, 1, 2, 3] && decide (nTiles m ≤ e)
      else tensorOk d c m.outAddr (m.m * outRow m outFmt) [0, 1, 2, 3]) &&
    (!m.accIn || tensorOk d c m.accAddr (4 * m.m * m.n) [0, 1, 2, 3]) &&
    tensorOk d c m.ccbAddr 32 [0, 1, 2, 3] &&
    (!folds m || tensorOk d c m.foldAddr ((e - 1) * 131072 + min m.m 512 * 256) [2]) &&
    (decide (m.done < 1024) || decide (m.done = 0xFFFF))

/-- R69. -/
def ccbOk (k : Ccb) : Bool :=
  decide (k.outFmt ≤ 5) && !(f32Unpack k.lo).isNaN && !(f32Unpack k.hi).isNaN && !(f32Unpack k.hi).ltNum (f32Unpack k.lo) &&
    (!k.biasEn || decide (k.biasAddr.toNat % 4 = 0))

/-- The first check of R88 that fails: 0 when none does. -/
def matCheck (d : Dev) (c : Nat) (m : MatDesc) (k : Ccb) (rawMask : Nat) : Nat :=
  if m.opcode ≠ 1 ∧ m.opcode ≠ 2 then 0x1011
  else if 4 < m.aRate ∨ 4 < m.bRate ∨ (m.aFmt = 3 ∧ m.aRate ≠ 0) ∨ (m.bFmt = 3 ∧ m.bRate ≠ 0) ∨
      (m.opcode = 2 ∧ (2 ≤ m.aFmt ∨ 2 ≤ m.bFmt)) then 0x1012
  else if m.opcode = 1 ∧ rawMask = 0 then 0x1013
  else if !alignedOk m then 0x1014
  else if !operandsOk d c m k.outFmt then 0x1015
  else if !ccbOk k then 0x1016
  else 0

/-- The converter control block that a descriptor names, read at issue (R426). -/
def readCcb (d : Dev) (x c : Nat) (m : MatDesc) : Ccb × Dev :=
  match localKey d c m.ccbAddr 32 with
  | none => (parseCcb (zeros 32), d)
  | some k => (parseCcb (memBytes d k 32), eccRead d x k 32)

/-- The part of a command that runs by itself. Log entry 69, DEDUCED. -/
def partOf (c : Nat) (i : Inst) (m : MatDesc) (k : Ccb) (addr : Word) : Part :=
  { rows := m.m, aAddr := m.aAddr, outAddr := m.outAddr, outCirc := m.outCirc, staged := none, results := [], reserve := 0,
    descAddr := addr, accIn := m.accIn, accAddr := m.accAddr, core := c, ctx := i.ctx, task := i.task, ftz := i.ftz, seed := i.seed,
    done := m.done, ccb := k, failed := false, cycles := [], forRoom := false }

/-- Puts a command of context `x` in a core's queue (R90). -/
def enqueueMat (d : Dev) (x c : Nat) (m : MatDesc) (parts : List Part) : Dev :=
  coreUpd d c fun k => { k with queue := k.queue ++ [⟨k.nextCmd, m, parts, false, x, []⟩], nextCmd := k.nextCmd + 1 }

/-! ### The batcher -/

/-- Staging bytes that a command reserves (R99); a row of a compressed A whose segments straddle rows counts rounded up (log entry 138,
DESIGN CHOICE). -/
def reserveOf (m : MatDesc) : Nat :=
  let row := if m.aFmt = 3 then m.k else if m.aRate = 0 then kBlocks m * blockBytes m.aFmt else cdiv (kBlocks m * segBytes m.aFmt m.aRate) 16
  cdiv (m.m * (row + 4 * m.n)) 64 * 64

/-- The parts of the issued groups of a cluster whose results are not yet copied out. -/
def issuedParts (d : Dev) (cl : Nat) : List Part :=
  ((clusterOf d cl).groups.filter fun g => g.due).flatMap Group.parts ++
    (List.range 8).flatMap fun i => (coreOf d (8 * cl + i)).queue.flatMap fun e => e.parts.filter fun p => p.staged.isSome

/-- Staging bytes in use in a cluster: open groups, and issued ones until their results are copied out. -/
def stagingUsed (d : Dev) (cl : Nat) : Nat :=
  let sum (ps : List Part) : Nat := ps.foldl (fun s p => s + p.reserve) 0
  sum (((clusterOf d cl).groups.filter fun g => !g.due).flatMap Group.parts) + sum (issuedParts d cl)

/-- First core-local address of the staging area (R151). -/
def stagingBase : Nat := 0x1E00000

/-- Whether a MATMUL goes to the batcher (R97, R99). Log entry 137, DESIGN CHOICE: one with N = 0 does not. -/
def batches (d : Dev) (c : Nat) (m : MatDesc) : Bool :=
  decide (m.opcode = 1) && m.batch && decide (1 ≤ m.m) && decide (m.m ≤ 63) && decide (m.n ≠ 0) && decide (memOf m.bAddr = some 3) &&
    decide (m.bAddr < stagingBase) && decide (og d 0x4011 (clOf c + 1) = 1) && decide (reserveOf m ≤ 2097152)

/-- The merge key of R98. -/
def mergeKey (m : MatDesc) : MatDesc :=
  { m with accIn := false, aCirc := false, outCirc := false, batch := true, m := 0, mask := 0, done := 0, aAddr := 0, outAddr := 0,
           accAddr := 0, foldAddr := 0 }

/-- The fill threshold (R99). -/
def fillAt (m : MatDesc) : Nat := if depthOf m = 512 then 128 else 64 / periodOf m

/-- Rows of a list of held commands. -/
def rowsOf (ps : List Part) : Nat := ps.foldl (fun s p => s + p.rows) 0

/-- The context that a group works for (R98). -/
def groupCtx (g : Group) : Nat := match g.parts.head? with | some p => p.ctx | none => 0

def groupsSet (d : Dev) (cl : Nat) (gs : List Group) : Dev := clusterUpd d cl fun k => { k with groups := gs }

/-- Issues group `i` of a cluster: it enters the lead's queue, or waits there for an entry (R99, R100). -/
def issueGroup (d : Dev) (cl i : Nat) : Dev :=
  match (clusterOf d cl).groups[i]? with
  | none => d
  | some g =>
    if (coreOf d g.lead).queue.length < 8 then
      enqueueMat (groupsSet d cl (dropAt (clusterOf d cl).groups i)) (groupCtx g) g.lead { g.desc with m := rowsOf g.parts } g.parts
    else groupsSet d cl (setAt (clusterOf d cl).groups i { g with due := true })

/-- Lets issued groups that wait for an entry of core `c` enter its queue. -/
def enterDue (d : Dev) (c : Nat) : Dev :=
  match (clusterOf d (clOf c)).groups.findIdx? fun g => g.due && decide (g.lead = c) with
  | none => d
  | some i => issueGroup d (clOf c) i

/-- Takes the rows of a circular A into staging: each row is an item taken and released (R87, R148, R149); with the fault otherwise. -/
def takeItems (d : Dev) (x c num width : Nat) : Nat → List Byte × List Bool → Dev × (List Byte × List Bool) × Nat
  | 0, acc => (d, acc, 0)
  | n + 1, acc =>
    let (d, acc, e) := takeItems d x c num width n acc
    if e ≠ 0 then (d, acc, e)
    else match regionKey c num with
      | none => (d, acc, 0x1021)
      | some key =>
        let d := recordRead d x (clOf c) key
        let r := regionOf d (clOf c) key
        if !r.valid || channelHas d x (clOf c) num true then (d, acc, 0x1021)
        else match consume r with
          | .complete r =>
            (match itemKey d c r (takenItem r) width with
            | none => (d, acc, 0x1002)
            | some k =>
              let acc := (acc.1 ++ memBytes d k width, acc.2 ++ memMarks d k width)
              let d := eccRead d x k width
              (match releaseItem r with
              | .complete r => (regionSet d (clOf c) key r, acc, 0)
              | .truncated r => (regionSet d (clOf c) key r, acc, 0)
              | _ => (d, acc, 0x1023)))
          | _ => (d, acc, 0x1023)

/-- Copies a command's A rows into staging (R99). -/
def stageRows (d : Dev) (x c : Nat) (m : MatDesc) : Dev × (List Byte × List Bool) × Nat :=
  if m.aCirc then takeItems d x c m.aAddr ((aItem m).getD 0) m.m ([], [])
  else match localKey d c m.aAddr (aBytes m) with
    | none => (d, ([], []), 0)
    | some k => (eccRead d x k (aBytes m), (memBytes d k (aBytes m), memMarks d k (aBytes m)), 0)

/-- The oldest group that is not yet issued. -/
def oldestOpen (d : Dev) (cl : Nat) : Option Nat := (clusterOf d cl).groups.findIdx? fun g => !g.due

/-- Issues the oldest open group. -/
def issueOldest (d : Dev) (cl : Nat) : Dev :=
  match oldestOpen d cl with
  | some j => issueGroup d cl j
  | none => d

/-- Makes room in the staging area: the oldest group is issued, one at a time, each when the one before has been copied out (R99).
Log entry 145, DEDUCED. -/
def makeRoom (d : Dev) (cl : Nat) : Dev :=
  if (issuedParts d cl).any fun p => p.forRoom then d
  else match oldestOpen d cl with
    | none => d
    | some j => match (clusterOf d cl).groups[j]? with
      | none => d
      | some g =>
        let g := { g with parts := g.parts.map fun p => { p with forRoom := true } }
        issueGroup (groupsSet d cl (setAt (clusterOf d cl).groups j g)) cl j

/-- Adds a staged command to its group, or opens one (R98); answers the group's place. -/
def joinGroup (gs : List Group) (same : Group → Bool) (c : Nat) (m : MatDesc) (p : Part) : List Group × Nat :=
  match gs.findIdx? same with
  | some j => (match gs[j]? with
    | some g => (setAt gs j { g with parts := g.parts ++ [p] }, j)
    | none => (gs, j))
  | none => (gs ++ [{ lead := c, desc := m, parts := [p], due := false }], gs.length)

/-- Offers a command to the batcher: it is accepted and the core goes on, a seventeenth group first issuing the oldest; or room is made
first and the core still holds the command (R97 to R99). Log entry 70, DEDUCED. -/
def offerBatch (d : Dev) (c : Nat) (i : Inst) (m : MatDesc) (k : Ccb) (addr : Word) : Dev :=
  let cl := clOf c
  let same (g : Group) : Bool := !g.due && decide (mergeKey g.desc = mergeKey m) && decide (groupCtx g = i.ctx)
  if 2097152 < stagingUsed d cl + reserveOf m then makeRoom d cl
  else
    let gs := (clusterOf d cl).groups
    let (d, st, err) := stageRows d i.ctx c m
    if err ≠ 0 then coreFault d c err (regionDetail c m.aAddr)
    else
      let d := if !gs.any same && decide (16 ≤ (gs.filter fun g => !g.due).length) then issueOldest d cl else d
      let p := { partOf c i m k addr with staged := some st, reserve := reserveOf m }
      let (gs, j) := joinGroup (clusterOf d cl).groups same c m p
      let d := retireDev (groupsSet d cl gs) c
      match gs[j]? with
      | some g => if fillAt m ≤ rowsOf g.parts then issueGroup d cl j else d
      | none => d

/-- MISSUE (R88 to R90, R97): a full queue holds the core at the instruction, and so do earlier vector instructions (R182). -/
def execMissue (c : Nat) (f : Fields) (s : State) : Host.Outcome State Fault Refusal :=
  onCoreMem 8 c s fun d k i =>
    if 8 ≤ k.queue.length ∨ k.vq ≠ [] then d
    else
      let addr := getX k f.rs1
      withAcc c false (operandRead d i.ctx c addr 64 64) fun b d =>
        let m := parseMat b
        let (ccb, d) := readCcb d i.ctx c m
        let e := matCheck d c m ccb (fld b 10 1 % 16)
        if e ≠ 0 then coreFault d c e addr
        else if batches d c m then offerBatch d c i m ccb addr
        else retireDev (enqueueMat d i.ctx c m [partOf c i m ccb addr]) c

/-- Whether the units of a context may act at all: a FROZEN context's on-chip state is held (R337). -/
def ctxActs (d : Dev) (x : Nat) : Bool := decide ((ctxOf d x).state ≠ .frozen)

/-- BATCH_TIMEOUT: group `k` of a cluster's batcher is issued (R99, R337). -/
def batchTimeout (d : Dev) (cl k : Nat) : Dev :=
  match (clusterOf d cl).groups[k]? with
  | some g => if ctxActs d (groupCtx g) then issueGroup d cl k else d
  | none => d

def execBatchTimeout (cl k : Nat) (s : State) : Host.Outcome State Fault Refusal :=
  if cl < 32 then .next { s with dev := batchTimeout s.dev cl k } else .next s

end Sys2Proof.Machine
end

