-- ==== Sys2Proof/Machine/Quiesce.lean ====
section
/-! DEFINITION. Coming to rest: when a pre-emption may write its harvest, and how harvest writing begins (R101, R241, R265 to R270,
R305). -/

namespace Sys2Proof.Machine

/-- Trains being received at a port that a context has, and the numbers of the egress trains that carry them on. -/
def rxsOf (p : Port) : List RxTrain := p.rxs.flatMap Prod.snd
def carried (p : Port) : List Nat := (rxsOf p).filterMap RxTrain.goesOn

/-- RING_TRAINS: trains of a context held in the package; one that arrives at a ring port and leaves by the other is one train (R287). -/
def ringTrains (d : Dev) (x : Nat) : Nat :=
  d.ports.foldl (fun n e =>
    let across := if e.1 = ringPort d 0 then ringPort d 1 else ringPort d 0
    n + ((rxsOf e.2).filter (rxMine x)).length +
      (e.2.egress.filter fun t => egressMine x t && !(t.forwarded && (carried (portOf d across)).contains t.id)).length) 0

/-- Whether a task of a context's graph runs. -/
def tasksRun (d : Dev) (x : Nat) : Bool :=
  match (ctxOf d x).graph with
  | none => false
  | some g => g.tasks.any fun e => match e.2 with
    | some t => decide (t.phase = .running)
    | none => false

/-- Matrix work held or queued in a cluster. -/
def partsIn (d : Dev) (cl : Nat) : List Part :=
  (clusterOf d cl).groups.flatMap Group.parts ++
    (List.range 8).flatMap fun i => (coreOf d (8 * cl + i)).queue.flatMap MatCmd.parts

/-- Whether a batcher group of a context is open or still runs (R101). -/
def batchOpen (d : Dev) (x : Nat) : Bool :=
  (clustersIn (maskOf d x)).any fun cl => (partsIn d cl).any fun p => decide (p.ctx = x) && p.staged.isSome

/-- Whether a channel of a context has an item in flight (R218). -/
def inFlight (d : Dev) (x : Nat) : Bool :=
  match (ctxOf d x).graph with
  | none => false
  | some g => g.chans.any fun h => h.flight.isSome

/-- A send list that has finished or stands at a GO wait (R305). -/
def atRest (l : SendList) : Bool := !l.on || !l.go

/-- Issues the first `n` open groups of context `x` in a cluster (R101). -/
def issueGroups (x cl : Nat) : Nat → Dev → Dev
  | 0, d => d
  | n + 1, d =>
    match (clusterOf d cl).groups.findIdx? fun g => !g.due && (match g.parts.head? with | some p => decide (p.ctx = x) | none => false) with
    | none => d
    | some j => issueGroups x cl n (issueGroup d cl j)

/-- At a pre-emption every open group of the context issues (R101). -/
def issueOpen (d : Dev) (x : Nat) : Dev := (clustersIn (maskOf d x)).foldl (fun d cl => issueGroups x cl 16 d) d

/-- Whether a pre-emption has come to rest: steps 1 to 3 of R265 are done, and the ring is quiet (R305). -/
def harvestDue (d : Dev) (x : Nat) : Bool :=
  let k := ctxOf d x
  (decide (k.state = .preempting) || decide (k.state = .reclaiming)) && decide (k.hkind ≠ 0) && !k.harvesting &&
    !batchOpen d x && !inFlight d x && decide (ringTrains d x = 0) &&
    (decide (k.hkind ≠ 1) || (!tasksRun d x && atRest k.east && atRest k.west))

/-! ### Harvest areas (R266, R267) -/

def areaVa (d : Dev) (x i : Nat) : Nat := og d (0x4040 + i) (x + 1)

/-- The area that the next harvest writes to (R266). -/
def nextArea (d : Dev) (x : Nat) : Nat :=
  if areaVa d x 0 = 0 then 1
  else if areaVa d x 1 = 0 then 0
  else match (ctxOf d x).newest with
    | some 0 => 1
    | _ => 0

/-- Bytes of an area for the clusters of a mask (R267). -/
def areaBytes (mask : Nat) : Nat := 0x20000 + (clustersIn mask).length * 0x4080000

/-- Whether a range lies wholly in mapped HBM pages that hold frames; writable ones when asked (R266, R300). -/
def inHbm (d : Dev) (x va n : Nat) (writable : Bool) : Bool :=
  (splitVa (n / 65536 + 2) va n).all fun e => match pageAt d x e.1 with
    | some p => decide (p.kind = 0) && p.frame.isSome && (!writable || p.w)
    | none => false

/-- Whether an area is set and mapped as a harvest needs it (R266). -/
def areaServes (d : Dev) (x i : Nat) : Bool :=
  decide (areaVa d x i ≠ 0) && inHbm d x (areaVa d x i) (areaBytes (maskOf d x)) true

/-- Whether the areas that are set serve a harvest, and at least one is set (R266). -/
def areasOk (d : Dev) (x : Nat) : Bool :=
  let ok (i : Nat) : Bool := decide (areaVa d x i = 0) || inHbm d x (areaVa d x i) (areaBytes (maskOf d x)) true
  (decide (areaVa d x 0 ≠ 0) || decide (areaVa d x 1 ≠ 0)) && ok 0 && ok 1

/-- Writes bytes of an area; a part of it that is no longer mapped takes nothing (log entry 38, DESIGN CHOICE). -/
def writeArea (d : Dev) (x va : Nat) (bs : List Byte) : Dev :=
  match writeVa d x va bs with
  | .ok _ d => d
  | _ => d

/-- Reads bytes of an area. -/
def readArea (d : Dev) (x va n : Nat) : List Byte × Dev :=
  match readVa d x va n with
  | .ok b d => (b, d)
  | .bad d => (zeros n, d)
  | .wait d => (zeros n, d)
  | .page _ _ d => (zeros n, d)
  | .resource _ d => (zeros n, d)

/-! ### Beginning -/

/-- Orders fault records by orchard time, then unit path, then slot (R268). -/
def faultBefore (a b : FaultRec) : Bool :=
  decide (a.time < b.time) || (decide (a.time = b.time) && (decide (a.unit < b.unit) || (decide (a.unit = b.unit) && decide (a.slot ≤ b.slot))))

def insertFault (r : FaultRec) : List FaultRec → List FaultRec
  | [] => [r]
  | h :: t => if faultBefore r h then r :: h :: t else h :: insertFault r t

def sortFaults (l : List FaultRec) : List FaultRec := l.foldr insertFault []

/-- A core that waits leaves its WAIT unexecuted, and a TLOAD that has begun completes (R241, R432). Log entry 127, DEDUCED. -/
def settleCore (d : Dev) (c : Nat) : Dev :=
  let d := finishTload d c
  if (coreOf d c).status = .waiting then
    coreUpd (leaveLines d c) c fun k => { k with status := .running, gated := false }
  else d

/-- Takes a context's send lists out of every line of waiters. -/
def leaveSends (d : Dev) (x : Nat) : Dev :=
  { d with tallies := d.tallies.map fun e => (e.1, { e.2 with line := e.2.line.filter fun w =>
    match w.1 with | .sendList y _ => decide (y ≠ x) | _ => true }) }

/-- A send list that waits leaves its GO wait unexecuted (R241, R295). -/
def settleSends (d : Dev) (x : Nat) : Dev :=
  ctxUpd (leaveSends d x) x fun k => { k with east := { k.east with waiting := false }, west := { k.west with waiting := false } }

/-- Harvest writing begins: dirty lines are written back, faults are withdrawn, SEQ rises, COMPLETE is written as 0 (R265 to R270).
Log entry 79, DEDUCED. -/
def beginHarvest (d : Dev) (x : Nat) : Dev :=
  let mask := maskOf d x
  let d := (clustersIn mask).foldl cleanCache d
  let d := settleSends ((coresIn mask).foldl settleCore d) x
  let faults := sortFaults (ctxOf d x).faults
  let d := ctxUpd (withdrawFaults d x) x fun k =>
    { k with harvesting := true, seq := k.seq + 1, saved := faults, began := d.otime.count, log := [], events := [], eventCount := 0 }
  let k := ctxOf d x
  let va := areaVa d x (nextArea d x)
  let d := writeArea d x (va + 0x3C) (toLE 4 0)
  writeArea d x va (toLE 4 k.seq ++ toLE 1 x ++ toLE 1 k.hkind ++ toLE 2 0 ++ toLE 4 mask ++ toLE 4 0 ++ toLE 8 k.began.toNat ++
    zeros 0x24)

/-- Begins the harvest of a context that has come to rest. -/
def tryHarvest (d : Dev) (x : Nat) : Dev := if harvestDue d x then beginHarvest d x else d

/-- Begins every harvest that is due after a change. -/
def settle (d : Dev) : Dev := (d.ctxs.map (·.1)).foldl tryHarvest d

end Sys2Proof.Machine
end

