-- ==== Sys2Proof/Machine/Engines.lean ====
section
/-! DEFINITION. The matrix engines (R81, R84, R90 to R94, R96, R100, R106): tile loads, buffer swaps, rows, completion, and a whole
command in one step. -/

namespace Sys2Proof.Machine

/-! ### The queue and the cursor -/

def engineOf (k : Core) (g : Nat) : Engine := look Engine.reset k.engines g
def engineUpd (d : Dev) (c g : Nat) (f : Engine → Engine) : Dev :=
  coreUpd d c fun k => { k with engines := put Engine.reset k.engines g (f (engineOf k g)) }

def cmdById (k : Core) (id : Nat) : Option MatCmd := k.queue.find? fun e => decide (e.id = id)
def cmdUpd (d : Dev) (c id : Nat) (f : MatCmd → MatCmd) : Dev :=
  coreUpd d c fun k => { k with queue := k.queue.map fun e => if e.id = id then f e else e }

/-- Changes one part of a command. -/
def updPart (i : Nat) (f : Part → Part) (q : MatCmd) : MatCmd :=
  { q with parts := match q.parts[i]? with
      | some p => setAt q.parts i (f p)
      | none => q.parts }

/-- A command that streams rows: not one with M = 0 or N = 0 (R93). -/
def streams (m : MatDesc) : Bool := decide (m.m ≠ 0) && decide (m.n ≠ 0)

/-- The place of an engine in the mask, and the N-tiles that it takes (R91). -/
def ordinal (m : MatDesc) (g : Nat) : Nat := ((enginesOf m).filter fun h => decide (h < g)).length
def tilesOf (m : MatDesc) (g : Nat) : Nat :=
  let e := (enginesOf m).length
  let i := ordinal m g
  if bit m.mask g && decide (i < nTiles m) then cdiv (nTiles m - i) e else 0

/-- K-tiles and M-chunks as the cursor counts them: K = 0 streams its rows once (R91, R93). -/
def tkOf (m : MatDesc) : Nat := max 1 (kTiles m)
def chunksOf (m : MatDesc) : Nat := if 2 ≤ kTiles m then cdiv m.m 512 else 1

/-- Tile passes of an engine. -/
def passesOf (m : MatDesc) (g : Nat) : Nat := if streams m then tilesOf m g * chunksOf m * tkOf m else 0

/-- N-tile, M-chunk and K-tile of a pass, in the order of R91. -/
def passTile (m : MatDesc) (g p : Nat) : Nat × Nat × Nat :=
  let n := p / (chunksOf m * tkOf m)
  (ordinal m g + n * (enginesOf m).length, p / tkOf m % chunksOf m, p % tkOf m)

/-- Rows of a pass. -/
def passRows (m : MatDesc) (p g : Nat) : Nat :=
  if 2 ≤ kTiles m then min 512 (m.m - 512 * (passTile m g p).2.1) else m.m

/-- Whether the command advances all its engines together (R87). -/
def lockstep (e : MatCmd) : Bool :=
  (e.desc.aCirc || e.desc.outCirc) && (match e.parts with | [p] => p.staged.isNone | _ => false)

/-- Whether a command is a group of the batcher. -/
def isGroup (e : MatCmd) : Bool := e.parts.any fun p => p.staged.isSome

/-- Whether a group of the batcher needs an entry of a core's queue to go on: it stands behind it, or waits for room in that queue.
Log entry 141, DESIGN CHOICE. -/
def groupBehind (d : Dev) (c id : Nat) : Bool :=
  ((coreOf d c).queue.any fun q => isGroup q && decide (id ≤ q.id)) ||
    (clusterOf d (clOf c)).groups.any fun g => g.due && decide (g.lead = c)

/-- Whether engines may move for a command of core `c`: a freeze and a forced pre-emption stop them at a row boundary, but groups of the
batcher complete first, with what stands before them (R101, R106, R265, R337). -/
def engineMay (d : Dev) (c : Nat) (e : MatCmd) : Bool :=
  let k := ctxOf d e.ctx
  match k.state with
  | .idle => true
  | .running => true
  | .preempting => !k.harvesting && (decide (k.hkind < 2) || groupBehind d c e.id)
  | .reclaiming => !k.harvesting && groupBehind d c e.id
  | _ => false

/-! ### Reading operands -/

/-- A source of operand bytes: offset and length to bytes, poison marks and the block after the read. -/
structure OpSource where
  read : Dev → Nat → Nat → List Byte × List Bool × Dev

/-- Operand bytes in memory at a core-local address. -/
def memSource (x c base : Nat) : OpSource :=
  ⟨fun d off n => match localKey d c (base + off) n with
    | none => (zeros n, [], d)
    | some k => (memBytes d k n, memMarks d k n, eccRead d x k n)⟩

/-- Operand bytes in staging. -/
def stagedSource (s : List Byte × List Bool) : OpSource := ⟨fun d off n => ((s.1.drop off).take n, (s.2.drop off).take n, d)⟩

/-- The blocks `js` of one segment that was read, with the check events of the blocks among them; the event of the whole segment belongs
to its reading (R125). -/
def segBlocks (log : Dev → Nat → Nat → Dev) (sg : Nat) (r : SegRead) (fresh : Bool) (js : List Nat) (d : Dev) :
    List (Nat × Option (List Byte)) × Dev :=
  let mine := js.filter fun j => decide (j / 16 = sg)
  let evs := r.events.filter fun e => if e = 0xFF then fresh else mine.any fun j => decide (j % 16 = e)
  (mine.map fun j => (j, r.blocks.getD (j % 16) none), evs.foldl (fun d e => log d sg e) d)

/-- Reads one segment of a tensor (R108, R122). -/
def fetchSegment (src : OpSource) (fmt rate x sg : Nat) (d : Dev) : SegRead × Dev :=
  let (b, marks, d) := src.read d (sg * segBytes fmt rate) (segBytes fmt rate)
  (readSegment fmt rate (ctxOf d x).tables b fun i => marks.getD i false, d)

/-- Reads the blocks `js` of a block tensor: each segment once, with the check events of the blocks that are needed (R108, R125, R134, R427);
none is a poisoned block. -/
def fetchBlocks (src : OpSource) (fmt rate x : Nat) (log : Dev → Nat → Nat → Dev) (js : List Nat) (d : Dev) :
    List (Nat × Option (List Byte)) × Dev :=
  if rate = 0 then
    js.foldl (fun (acc : List (Nat × Option (List Byte)) × Dev) j =>
      let (b, marks, d) := src.read acc.2 (j * blockBytes fmt) (blockBytes fmt)
      (acc.1 ++ [(j, if marks.any id then none else some b)], d)) ([], d)
  else
    let segs := (js.map (· / 16)).eraseDups
    segs.foldl (fun (acc : List (Nat × Option (List Byte)) × Dev) sg =>
      let (r, d) := fetchSegment src fmt rate x sg acc.2
      let (l, d) := segBlocks log sg r true js d
      (acc.1 ++ l, d)) ([], d)

/-- The block that was fetched for `j`. -/
def blockFor (l : List (Nat × Option (List Byte))) (j : Nat) : Option (List Byte) :=
  match l.find? fun e => decide (e.1 = j) with
  | some e => e.2
  | none => none

/-- Element `i` of a fetched block at an operand port: every element of a poisoned block is NaR (R126). -/
def portElem (fmt : Nat) (b : Option (List Byte)) (i : Nat) : Val := match b with | none => .nar | some b => blockElem fmt b i

/-- An element of an F8 tensor with its scale (R51, R52). -/
def f8Elem (scale : W32) (b : Byte) (bad : Bool) : Val := if bad then .nar else (f8Val b).mul (f32Val scale)

/-- K values of a K-tile: from and to. -/
def tileFrom (m : MatDesc) (t : Nat) : Nat := depthOf m * t
def tileTo (m : MatDesc) (t : Nat) : Nat := min m.k (depthOf m * (t + 1))

/-- K-blocks of a K-tile. -/
def tileBlocks (m : MatDesc) (t : Nat) : List Nat :=
  (List.range (depthOf m / 32)).map (fun b => depthOf m / 32 * t + b) |>.filter fun b => decide (b < kBlocks m)

/-- Element k of row or column `r` of a block operand, out of its fetched blocks. -/
def blockValue (m : MatDesc) (fmt r : Nat) (l : List (Nat × Option (List Byte))) (k : Nat) : Val :=
  portElem fmt (blockFor l (r * kBlocks m + k / 32)) (k % 32)

/-- The flags of decoding the K-tile's part of row or column `r` (R47, R48). -/
def blockTileFlags (m : MatDesc) (fmt r t : Nat) (l : List (Nat × Option (List Byte))) : Half :=
  (tileBlocks m t).foldl (fun f b => match blockFor l (r * kBlocks m + b) with
    | some blk => f ||| blockFlags fmt blk (fun i => decide (32 * b + i < m.k))
    | none => f) (0 : Half)

/-- The blocks of the K-tile's part of row or column `r`. -/
def vectorBlocks (m : MatDesc) (r t : Nat) : List Nat := (tileBlocks m t).map fun b => r * kBlocks m + b

/-- The K-tile's part of row or column `r` of an F8 operand: its values by k. -/
def fetchF8 (src : OpSource) (m : MatDesc) (scale : W32) (r t : Nat) (d : Dev) : (Nat → Val) × Dev :=
  let n := tileTo m t - tileFrom m t
  let (b, marks, d) := src.read d (r * m.k + tileFrom m t) n
  (fun k => f8Elem scale (b.getD (k - tileFrom m t) 0) (marks.getD (k - tileFrom m t) false), d)

/-- PATH of an engine's decoders (R332), and the check event of a segment of a tensor at a core-local base. -/
def segEvent (c g x base size : Nat) (d : Dev) (sg block : Nat) : Dev :=
  checkEvent d x (corePath d c g 10) block (BitVec.ofNat 64 (base + sg * size))

/-! ### Tiles -/

/-- The tile that an engine loads next: that of its cursor's pass when it is not active, else the next pass of its command, else the first
of the earliest queued command that uses it and has not started, once its own last pass runs (R84, R106). Log entry 142, DESIGN CHOICE:
a command without tiles on the engine counts as that earliest one. -/
def nextTile (k : Core) (g : Nat) : Option (Nat × Nat) :=
  let e := engineOf k g
  let first : Option (Nat × Nat) :=
    (k.queue.find? fun q => !q.started && bit q.desc.mask g).bind fun q =>
      if passesOf q.desc g = 0 ∨ q.desc.k = 0 then none else some (q.id, 0)
  match e.cmd with
  | none => first
  | some id => match cmdById k id with
    | none => first
    | some q =>
      if q.desc.k = 0 then first
      else
        let p := match e.active with
          | some t => if t.cmd = id ∧ t.pass = e.pass then e.pass + 1 else e.pass
          | none => e.pass
        if p < passesOf q.desc g then some (id, p) else first

/-- The columns of an N-tile. -/
def tileCols (m : MatDesc) (nt : Nat) : List Nat := (List.range 64).filter fun j => decide (64 * nt + j < m.n)

/-- Lays the values of one column into a tile: K of the K-tile by column. -/
def putColumn (m : MatDesc) (kt j : Nat) (val : Nat → Val) (t : Table Val) : Table Val :=
  (List.range (tileTo m kt - tileFrom m kt)).foldl (fun t i => put (.num 0 0) t (64 * i + j) (val (tileFrom m kt + i))) t

/-- The decoded elements of a weight tile, with the flags of decoding: each segment is read once for the whole tile (R84, R134). -/
def tileElems (src : OpSource) (m : MatDesc) (nt kt x : Nat) (log : Dev → Nat → Nat → Dev) (d : Dev) : Table Val × Half × Dev :=
  let cols := tileCols m nt
  if m.bFmt = 3 then
    cols.foldl (fun (acc : Table Val × Half × Dev) j =>
      let (val, d) := fetchF8 src m m.bScale (64 * nt + j) kt acc.2.2
      (putColumn m kt j val acc.1, 0, d)) ([], 0, d)
  else
    let (l, d) := fetchBlocks src m.bFmt m.bRate x log (cols.flatMap fun j => vectorBlocks m (64 * nt + j) kt) d
    (cols.foldl (fun t j => putColumn m kt j (blockValue m m.bFmt (64 * nt + j) l) t) [],
      cols.foldl (fun f j => f ||| blockTileFlags m m.bFmt (64 * nt + j) kt l) 0, d)

/-- Loads a weight tile into the shadow buffer of an engine (R84): its elements in decoded form, columns of the N-tile by K of the
K-tile. -/
def loadTile (d : Dev) (c g : Nat) : Dev :=
  let k := coreOf d c
  match (engineOf k g).shadow, nextTile k g with
  | none, some (id, p) =>
    (match cmdById k id with
    | none => d
    | some q =>
      if !engineMay d c q || bankFlagged d c 1 then d
      else
        let m := q.desc
        let x := q.ctx
        let (nt, _, kt) := passTile m g p
        let size := if m.bFmt = 3 then 0 else segBytes m.bFmt m.bRate
        let (elems, fl, d) := tileElems (memSource x c m.bAddr) m nt kt x (segEvent c g x m.bAddr size) d
        let d := q.parts.foldl (fun d r => raise d r.ctx r.task r.core fl) d
        let k := tileKey c g (!(engineOf (coreOf d c) g).flip) 0
        let d := { d with poison := clearMarks d.poison (k / 8) 8192, upset := clearMarks d.upset (k / 8) 8192 }
        engineUpd d c g fun e => { e with shadow := some ⟨id, p, true, elems⟩ })
  | _, _ => d

/-- Swaps the buffers of an engine when its cursor stands in the pass that the shadow holds (R84, R106); a command that is held swaps
nothing (R337). -/
def swapTiles (d : Dev) (c g : Nat) : Dev :=
  let k := coreOf d c
  let e := engineOf k g
  match e.shadow, e.cmd.bind (cmdById k) with
  | some t, some q =>
    if t.loaded ∧ t.cmd = q.id ∧ e.pass = t.pass ∧ engineMay d c q = true then engineUpd d c g fun e => { e with active := some t, shadow := none, flip := !e.flip }
    else d
  | _, _ => d

/-! ### Rows -/

/-- The part that a row of a command belongs to, with its place among the parts and the row within it (R100). -/
def partAt : List Part → Nat → Nat → Option (Nat × Nat × Part)
  | [], _, _ => none
  | p :: r, i, m => if m < p.rows then some (i, m, p) else partAt r (i + 1) (m - p.rows)

/-- The rounded product of two decoded values, with flags (R56, R57). -/
def product (ftz : Bool) (a b : Val) : BitVec 24 × Half := (a.mul b).toA24 ftz

/-- Saturations and flushes to zero of an A24 result (R80). -/
def a24Stat (r : BitVec 24 × Half) : Nat × Nat := (b2n (decide (r.2 &&& fOF ≠ 0)), b2n (decide (r.2 &&& fUF ≠ 0 ∧ r.1 = 0)))

/-- An accumulator in progress: its code, flags, saturations, flushes to zero. -/
structure AccState where
  acc : BitVec 24
  flags : Half
  sat : Nat
  nulls : Nat
  deriving DecidableEq, Repr

/-- Adds a block sum to the accumulator (R59 to R61). -/
def addBlock (ftz : Bool) (a b : Nat → Val) (from_ to_ : Nat) (s : AccState) : AccState :=
  let r := (List.range (to_ - from_)).foldl (fun (t : Val × Half × Nat × Nat) i =>
    let p := product ftz (a (from_ + i)) (b (from_ + i))
    let (sat, nul) := a24Stat p
    (t.1.add (a24Val p.1), t.2.1 ||| p.2, t.2.2.1 + sat, t.2.2.2 + nul)) (.num 0 0, 0, 0, 0)
  let z := ((a24Val s.acc).add r.1).toA24 ftz
  let (sat, nul) := a24Stat z
  ⟨z.1, s.flags ||| r.2.1 ||| z.2, s.sat + r.2.2.1 + sat, s.nulls + r.2.2.2 + nul⟩

/-- A column over one K-tile. -/
def columnTile (m : MatDesc) (ftz : Bool) (t : Nat) (a b : Nat → Val) (start : BitVec 24) : AccState :=
  (tileBlocks m t).foldl (fun s blk => addBlock ftz a b (32 * blk) (min m.k (32 * blk + 32)) s) ⟨start, 0, 0, 0⟩

/-- y32 of the output converter (R66): α × acc + β with one rounding. -/
def convY (alpha : W32) (acc : BitVec 24) (beta : W32) : W32 × Half :=
  match a24Val acc, f32Unpack alpha, f32Unpack beta with
  | .nar, _, _ => (qNaN, fNR)
  | _, .nan _, _ => (qNaN, fNR)
  | _, _, .nan _ => (qNaN, fNR)
  | .num m _, .inf s, y =>
    if m = 0 then (qNaN, fNR)
    else
      let neg := s != decide (m < 0)
      (match y with
      | .inf t => if t = neg then (f32Inf neg, 0) else (qNaN, fNR)
      | _ => (f32Inf neg, 0))
  | .num _ _, _, .inf t => (f32Inf t, 0)
  | .num m e, .fin s n k, .fin t q j =>
    let p := Dy.mul ⟨m, e⟩ (Fp.dy (.fin s n k))
    let neg := s != decide (m < 0)
    f32Round .rne (neg && t && p.isZero) (p.add (Fp.dy (.fin t q j)))

/-- The clip of R66: the value, CL, and whether it was clipped low or high. -/
def clipY (k : Ccb) (y : W32) : W32 × Half × Bool × Bool :=
  let v := f32Unpack y
  if v.isNaN then (y, 0, false, false)
  else if v.ltNum (f32Unpack k.lo) then (k.lo, fCL, true, false)
  else if (f32Unpack k.hi).ltNum v then (k.hi, fCL, false, true)
  else (y, 0, false, false)

/-- One converted row of an N-tile: bytes by offset within the output row, flags and statistics (R66 to R80). `accs` holds the columns
from 64·nt on. -/
def convertRow (p : Part) (nt row : Nat) (accs : List (BitVec 24)) (bias : Nat → W32) : List (Nat × List Byte) × Half × Stats :=
  let k := p.ccb
  let cols := List.range accs.length
  let n (j : Nat) : Nat := 64 * nt + j
  let acc (j : Nat) : BitVec 24 := accs.getD j 0
  if k.outFmt = 5 then
    (cols.map fun j => (4 * n j, toLE 4 ((acc j).toNat * 256)), 0, cols.foldl (fun s j => Stats.sum s (binStat (binA24 (acc j)))) Stats.zero)
  else
    let y32 (j : Nat) : W32 × Half := convY k.alpha (acc j) (if k.biasEn then bias (n j) else 0)
    let ys := cols.map fun j => clipY k (y32 j).1
    let y (j : Nat) : W32 := (ys.getD j (0, 0, false, false)).1
    let mode (j : Nat) : RMode := if k.sr then .sr (columnRandom p.seed (n j) row) else .rne
    let fl := cols.foldl (fun f j => f ||| (y32 j).2 ||| (ys.getD j (0, 0, false, false)).2.1) (0 : Half)
    let st := cols.foldl (fun s j =>
      let c := ys.getD j (0, 0, false, false)
      Stats.sum s { binStat (binF32 (y32 j).1) with clipLo := b2n c.2.2.1, clipHi := b2n c.2.2.2 }) Stats.zero
    if k.outFmt < 3 then
      let groups := List.range (cdiv accs.length 32)
      let encs := groups.map fun g =>
        (g, encodeBlock k.outFmt k.t k.i4full (((List.range 32).filter fun e => decide (32 * g + e < accs.length)).map fun e =>
          ⟨e, f32Mag (y (32 * g + e)), mode (32 * g + e)⟩))
      (encs.map fun e => (blockBytes k.outFmt * (2 * nt + e.1), e.2.bytes), encs.foldl (fun f e => f ||| e.2.flags) fl,
        encs.foldl (fun s e => Stats.sum s (encStat e.2)) st)
    else if k.outFmt = 3 then
      let cs := cols.map fun j => f32ToF8 (mode j) (y j)
      (cols.map fun j => (n j, [(cs.getD j (0, 0)).1]), cs.foldl (fun f c => f ||| c.2) fl, st)
    else (cols.map fun j => (4 * n j, toLE 4 (y j).toNat), fl, st)

/-- Reads the bias values of an N-tile for a part (R426): none with the fault of R433. -/
def readBias (d : Dev) (x : Nat) (k : Ccb) (n0 cnt : Nat) : List W32 × Option (Nat × Word) × Dev :=
  let va := k.biasAddr.toNat + 4 * n0
  match keysVa d x (va % 2 ^ 64) (4 * cnt) false with
  | .ok l d =>
    let b := rangesBytes d l
    let ms := rangesMarks d l
    ((List.range cnt).map fun j => if ((ms.drop (4 * j)).take 4).any id then qNaN else BitVec.ofNat 32 (fld b (4 * j) 4), none, rangesEcc d x l)
  | .bad d => ([], some (0x1051, BitVec.ofNat 64 va), d)
  | .wait d => ([], none, d)
  | .page a _ d => ([], some (0x1051, BitVec.ofNat 64 a), d)
  | .resource a d => ([], some (0x1052, BitVec.ofNat 64 a), d)

/-- Reads a starting accumulator or fold container: a poisoned one is NaR (R427). -/
def readA24 (d : Dev) (x c a : Nat) : BitVec 24 × Dev :=
  match localKey d c a 4 with
  | none => (0, d)
  | some k => (if (memMarks d k 4).any id then a24NaR else BitVec.ofNat 24 (leNat (memBytes d k 4) / 256), eccRead d x k 4)

/-- Writes bytes at a core-local address. -/
def putLocal (d : Dev) (x c a : Nat) (bs : List Byte) : Dev :=
  match localKey d c a bs.length with
  | none => d
  | some k => memWrite d x k bs

/-- The A row of a pass at an engine: its values by k with the flags of decoding. Of a compressed A the decoder keeps the segment that
it has in progress, so a segment that spans rows is read once (R122, R128, R134). -/
def fetchRow (src : OpSource) (m : MatDesc) (q : MatCmd) (c g pass part aRow aBase x : Nat) (d : Dev) : (Nat → Val) × Half × Dev :=
  let kt := (passTile m g pass).2.2
  if m.aFmt = 3 then
    let (val, d) := fetchF8 src m m.aScale aRow kt d
    (val, 0, d)
  else
    let js := vectorBlocks m aRow kt
    let log := segEvent c g x aBase (segBytes m.aFmt m.aRate)
    if m.aRate = 0 then
      let (l, d) := fetchBlocks src m.aFmt 0 x log js d
      (blockValue m m.aFmt aRow l, blockTileFlags m m.aFmt aRow kt l, d)
    else
      let segs := (js.map (· / 16)).eraseDups
      let (l, d) := segs.foldl (fun (acc : List (Nat × Option (List Byte)) × Dev) sg =>
        let held := (engineOf (coreOf acc.2 c) g).seg.filter fun h =>
          decide (h.cmd = q.id) && decide (h.pass = pass) && decide (h.part = part) && decide (h.seg = sg)
        let met := match held with
          | some h => h.met
          | none => []
        let (bytes, fresh, d) : (List Byte × List Bool × Table (Option CodeTable)) × Bool × Dev := match held.bind HeldSeg.read with
          | some b => (b, false, eccRead acc.2 x (decoderKey c g) 2048)
          | none =>
            let size := segBytes m.aFmt m.aRate
            let (b, marks, d) := src.read acc.2 (sg * size) size
            ((b, marks, (ctxOf d x).tables), true,
              { d with poison := clearMarks d.poison (decoderKey c g / 8) 256, upset := clearMarks d.upset (decoderKey c g / 8) 256 })
        let r := readSegment m.aFmt m.aRate bytes.2.2 bytes.1 fun i => bytes.2.1.getD i false || poisoned d (decoderKey c g + i)
        -- decoded again from its start after a harvest: the blocks met before are met again
        let d := if fresh then (segBlocks log sg r false met d).2 else d
        let (l, d) := segBlocks log sg r fresh js d
        let spans := decide ((aRow + 1) * kBlocks m % 16 ≠ 0)
        (acc.1 ++ l, engineUpd d c g fun e =>
          { e with seg := if spans then some ⟨q.id, pass, part, sg, some bytes, met ++ l.map (·.1)⟩ else none })) (([], d) : List (Nat × Option (List Byte)) × Dev)
      (blockValue m m.aFmt aRow l, blockTileFlags m m.aFmt aRow kt l, d)

/-- Where the accumulators of a row wait between K-tiles: in the fold area, or, for a group of several commands, with the group
(R92, R100; log entry 139, DESIGN CHOICE). -/
def foldKept (q : MatCmd) : Bool := decide (2 ≤ q.parts.length)
def foldAddrOf (m : MatDesc) (g row : Nat) : Nat := m.foldAddr + ordinal m g * 131072 + 256 * row
def foldKey (g row j : Nat) : Nat := g * 2 ^ 32 + 64 * row + j

/-- The accumulators that row `row` of an engine's chunk left for the next K-tile. -/
def foldRead (d : Dev) (c g : Nat) (q : MatCmd) (x row j : Nat) : BitVec 24 × Dev :=
  if foldKept q then (look 0 q.fold (foldKey g row j), d) else readA24 d x c (foldAddrOf q.desc g row + 4 * j)
def foldWrite (d : Dev) (c g : Nat) (q : MatCmd) (x row j : Nat) (v : BitVec 24) : Dev :=
  if foldKept q then cmdUpd d c q.id fun q => { q with fold := put 0 q.fold (foldKey g row j) v }
  else putLocal d x c (foldAddrOf q.desc g row + 4 * j) (toLE 4 (v.toNat * 256))

/-- Marks a part of a command failed and faults its task; the command's other parts go on (R149, R433). -/
def failPart (d : Dev) (c id i code : Nat) (detail : Word) : Dev :=
  match (cmdById (coreOf d c) id).bind fun q => q.parts[i]? with
  | none => d
  | some p => taskFail (cmdUpd d c id (updPart i fun p => { p with failed := true })) p.ctx p.task p.core code detail

/-- Where a row's A lies and where its output goes: offset source of A, row index within it, and base of the output row. -/
structure RowPlace where
  src : OpSource
  aRow : Nat
  aBase : Nat
  out : Option Nat

/-- The row of the command that engine `g` takes next. -/
def rowOf (m : MatDesc) (g : Nat) (e : Engine) : Nat := 512 * (if 2 ≤ kTiles m then (passTile m g e.pass).2.1 else 0) + e.row

/-- Computes one row of the pass that engine `g` runs; `place` says where its operands lie (R81, R91 to R94). Log entries 143 and 144,
DESIGN CHOICE: a row of raw A24 output sets no NR for a NaR that it only copies, and reads no bias. -/
def rowStep (d : Dev) (c g : Nat) (q : MatCmd) (e : Engine) (place : Part → Nat → RowPlace) : Dev :=
  let m := q.desc
  let (nt, _, kt) := passTile m g e.pass
  match partAt q.parts 0 (rowOf m g e) with
  | none => d
  | some (pi, row, p) =>
    if p.failed then d
    else
      let cols := tileCols m nt
      let last := decide (kt + 1 = tkOf m)
      -- starting accumulators
      let (starts, d) := cols.foldl (fun (acc : List (BitVec 24) × Dev) j =>
        let r := if kt ≠ 0 then foldRead acc.2 c g q p.ctx e.row j
          else if p.accIn then readA24 acc.2 p.ctx p.core (p.accAddr + 4 * (row * m.n + 64 * nt + j))
          else (0, acc.2)
        (acc.1 ++ [r.1], r.2)) ([], d)
      let pl := place p row
      let (aVal, afl, d) := if m.k = 0 then ((fun _ => Val.num 0 0), (0 : Half), d)
        else fetchRow pl.src m q c g e.pass pi pl.aRow pl.aBase p.ctx d
      let tile := match e.active with
        | some t => t.elems
        | none => []
      let buf := tileKey c g e.flip 0
      let bVal (d : Dev) (i : Nat) : Val := if poisoned d (buf + i) then .nar else look (.num 0 0) tile i
      let d := if m.k = 0 then d else eccRead d p.ctx buf (64 * (tileTo m kt - tileFrom m kt))
      let cs := cols.map fun j =>
        if m.k = 0 then (⟨starts.getD j 0, 0, 0, 0⟩ : AccState)
        else columnTile m p.ftz kt aVal (fun k => bVal d (64 * (k - tileFrom m kt) + j)) (starts.getD j 0)
      let fl := cs.foldl (fun f s => f ||| s.flags) afl
      let st := cs.foldl (fun (t : Nat × Nat) s => (t.1 + s.sat, t.2 + s.nulls)) (0, 0)
      let d := count (raise d p.ctx p.task p.core fl) p.ctx p.task { Stats.zero with accSat := st.1, ufZero := st.2 }
      if !last then
        (List.range cols.length).foldl (fun d j => foldWrite d c g q p.ctx e.row j (cs.getD j ⟨0, 0, 0, 0⟩).acc) d
      else
        let held := e.bias.find? fun b => decide (b.1 = q.id ∧ b.2.1 = nt ∧ b.2.2.1 = pi)
        let (bias, err, d) := match held with
          | some b => (b.2.2.2, none, d)
          | none => if p.ccb.biasEn && decide (p.ccb.outFmt ≠ 5) then readBias d p.ctx p.ccb (64 * nt) cols.length else ([], none, d)
        match err with
        | some (code, a) => failPart d c q.id pi code a
        | none =>
          let (outs, ofl, ost) := convertRow p nt row (cs.map (·.acc)) fun n => bias.getD (n - 64 * nt) 0
          let d := count (raise d p.ctx p.task p.core ofl) p.ctx p.task ost
          let d := engineUpd d c g fun e =>
            { e with bias := (e.bias.filter fun b => decide (b.1 = q.id ∧ b.2.1 = nt ∧ b.2.2.1 ≠ pi)) ++ [(q.id, nt, pi, bias)] }
          if p.staged.isSome then
            let base := row * outRow m p.ccb.outFmt
            cmdUpd d c q.id (updPart pi fun p => { p with results := p.results ++ outs.map fun o => (base + o.1, o.2) })
          else match pl.out with
            | none => d
            | some base => outs.foldl (fun d o => putLocal d p.ctx c (base + o.1) o.2) d

/-- Adds cycles of engine `g` to a part: busy, row-stall, column-stall (R104). -/
def addCycles (g b r v : Nat) (p : Part) : Part :=
  let w := look (0, 0, 0) p.cycles g
  { p with cycles := put (0, 0, 0) p.cycles g (satAdd 32 w.1 b, satAdd 32 w.2.1 r, satAdd 32 w.2.2 v) }

/-- The cursor after a row: the next row, the next pass, or the end of the engine's work. The row's busy and stall cycles are free beyond the
row period, and count for the command that the row belongs to (log entries 37 and 140, DESIGN CHOICE). -/
def advance (d : Dev) (c g : Nat) (q : MatCmd) : Dev :=
  let (n, d) := draw d
  let e := engineOf (coreOf d c) g
  let d := match partAt q.parts 0 (rowOf q.desc g e) with
    | none => d
    | some (pi, _, _) => cmdUpd d c q.id
        (updPart pi (addCycles g (periodOf q.desc + Config.number (3 * n)) (Config.number (3 * n + 1)) (Config.number (3 * n + 2))))
  engineUpd d c g fun e =>
    if e.row + 1 < passRows q.desc e.pass g then { e with row := e.row + 1 }
    else if e.pass + 1 < passesOf q.desc g then { e with row := 0, pass := e.pass + 1 }
    else { e with row := 0, pass := 0, cmd := none, active := none, bias := [], seg := none }

/-- Whether an engine can take its next row: its tile is active, or K is 0. -/
def rowReady (k : Core) (q : MatCmd) (g : Nat) : Bool :=
  let e := engineOf k g
  decide (e.cmd = some q.id) && (decide (q.desc.k = 0) || (match e.active with
    | some t => decide (t.cmd = q.id) && decide (t.pass = e.pass)
    | none => false))

/-- The plain places of a row: its own row of A and of the output (R86). -/
def plainPlace (c : Nat) (m : MatDesc) (p : Part) (row : Nat) : RowPlace :=
  match p.staged with
  | some s => ⟨stagedSource s, row, p.aAddr, none⟩
  | none => ⟨memSource p.ctx c p.aAddr, row, p.aAddr, some (p.outAddr + row * outRow m p.ccb.outFmt)⟩

/-- Ends a command on every engine of its mask. -/
def dropFromEngines (d : Dev) (c id : Nat) : Dev :=
  (List.range 4).foldl (fun d g => engineUpd d c g fun e =>
    let e := if e.cmd = some id then { e with cmd := none, pass := 0, row := 0, active := none, bias := [], seg := none } else e
    if (match e.shadow with | some t => decide (t.cmd = id) | none => false) then { e with shadow := none } else e) d

/-- The region of an operand, when a valid one stands there and no channel owns that side (R149, R219). -/
def circRegion (d : Dev) (x c num : Nat) (source : Bool) : Option (Nat × Region) :=
  match regionKey c num with
  | none => none
  | some key =>
    let r := regionOf d (clOf c) key
    if r.valid && !channelHas d x (clOf c) num source then some (key, r) else none

/-- How one side of a circular row goes: a fault code, or the place of the item (none where its writes are dropped) after the region moved. -/
inductive CircRow where
  | unused
  | fault (code : Nat)
  | item (addr : Option Nat)
  deriving DecidableEq, Repr

/-- Reads the record of the region that a number names. -/
def sideRead (d : Dev) (x c num : Nat) : Dev :=
  match regionKey c num with
  | some key => recordRead d x (clOf c) key
  | none => d

/-- Takes the next item of a circular A: its `n` bytes lie at the item that the consumer reads (R87, R148, R149). -/
def takeRow (d : Dev) (x c num n : Nat) : CircRow × Dev :=
  let d := sideRead d x c num
  match circRegion d x c num true with
  | none => (.fault 0x1021, d)
  | some (key, r) => match consume r with
    | .complete r => if (itemKey d c r (takenItem r) n).isSome then (.item (some (itemAddr r (takenItem r))), regionSet d (clOf c) key r)
      else (.fault 0x1002, d)
    | _ => (.fault 0x1023, d)

/-- Opens the next item of a circular output (R87, R148, R149). -/
def openRow (d : Dev) (x c num n : Nat) : CircRow × Dev :=
  let d := sideRead d x c num
  match circRegion d x c num false with
  | none => (.fault 0x1021, d)
  | some (key, r) => match produce r with
    | .complete r => if (itemKey d c r r.tail n).isSome then (.item (some (itemAddr r r.tail)), regionSet d (clOf c) key r) else (.fault 0x1002, d)
    | .truncated _ => (.item none, d)
    | _ => (.fault 0x1022, d)

/-- A release or commit at the end of a row; its status has no reader. -/
def endItem (d : Dev) (c num : Nat) (move : Region → Moved) : Dev :=
  match regionKey c num with
  | none => d
  | some key => match move (regionOf d (clOf c) key) with
    | .complete r => regionSet d (clOf c) key r
    | .truncated r => regionSet d (clOf c) key r
    | _ => d

/-- One row of a command with circular regions: its engines take the row together, the A item is taken and released, the output item is opened
and committed (R87, R148, R149). -/
def circularRow (d : Dev) (c : Nat) (q : MatCmd) : Dev :=
  match q.parts with
  | [p] =>
    let m := q.desc
    let gs := (enginesOf m).filter fun g => decide (passesOf m g ≠ 0)
    let fail (d : Dev) (code num : Nat) : Dev := dropFromEngines (failPart d c q.id 0 code (regionDetail c num)) c q.id
    let kt := match gs with
      | g :: _ => (passTile m g (engineOf (coreOf d c) g).pass).2.2
      | [] => 0
    let last := decide (kt + 1 = tkOf m)
    let (ra, d) := if m.aCirc then takeRow d p.ctx c p.aAddr ((aItem m).getD 0) else (.unused, d)
    match ra with
    | .fault code => fail d code p.aAddr
    | _ =>
      let (ro, d) := if m.outCirc && last then openRow d p.ctx c p.outAddr (outRow m p.ccb.outFmt) else (.unused, d)
      match ro with
      | .fault code => fail d code p.outAddr
      | _ =>
        let place (p : Part) (row : Nat) : RowPlace :=
          let pl := plainPlace c m p row
          let pl := match ra with
            | .item (some a) => { pl with src := memSource p.ctx c a, aRow := 0, aBase := a }
            | _ => pl
          if m.outCirc then { pl with out := match ro with
            | .item a => a
            | _ => none }
          else pl
        let d := gs.foldl (fun d g => match cmdById (coreOf d c) q.id with
          | some q => rowStep d c g q (engineOf (coreOf d c) g) place
          | none => d) d
        let failed := match cmdById (coreOf d c) q.id with
          | some q => q.parts.all fun p => p.failed
          | none => true
        if failed then dropFromEngines d c q.id
        else
          let d := gs.foldl (fun d g => advance d c g q) d
          let d := if ra = .unused then d else endItem d c p.aAddr releaseItem
          if ro = .unused then d else endItem d c p.outAddr commitItem
  | _ => d

/-- Whether a bias read of a command waits for the host (R345). -/
def biasWaits (d : Dev) (q : MatCmd) : Bool :=
  q.parts.any fun p => p.ccb.biasEn && hostWaits d p.ctx p.ccb.biasAddr.toNat (4 * q.desc.n)

/-- One row on engine `g` of core `c`, when one can enter (R81, R87). -/
def matrixRow (d : Dev) (c g : Nat) : Dev :=
  let k := coreOf d c
  match (engineOf k g).cmd.bind (cmdById k) with
  | none => d
  | some q =>
    if !engineMay d c q || bankFlagged d c 2 || bankFlagged d c 3 || bankFlagged d c 4 || biasWaits d q then d
    else if lockstep q then
      (if ((enginesOf q.desc).filter fun h => decide (passesOf q.desc h ≠ 0)).all (rowReady k q) then circularRow d c q else d)
    else if rowReady k q g then
      let d := rowStep d c g q (engineOf k g) (plainPlace c q.desc)
      match cmdById (coreOf d c) q.id with
      | some q' => if q'.parts.all fun p => p.failed then dropFromEngines d c q.id else advance d c g q
      | none => d
    else d

/-! ### Start and completion -/

/-- Whether every engine has finished a command. -/
def finishedBy (k : Core) (q : MatCmd) : Bool :=
  q.started && (List.range 4).all fun g => decide ((engineOf k g).cmd ≠ some q.id)

/-- A queued command starts when all earlier ones have started and every engine of its mask is done with earlier commands (R90). -/
def startCmd (d : Dev) (c i : Nat) : Dev :=
  let k := coreOf d c
  match k.queue[i]? with
  | none => d
  | some q =>
    if !q.started && engineMay d c q && ((k.queue.take i).all fun e => e.started || !streams e.desc) &&
        ((enginesOf q.desc).all fun g => decide ((engineOf k g).cmd = none)) then
      let d := cmdUpd d c q.id fun q => { q with started := true }
      (enginesOf q.desc).foldl (fun d g =>
        if passesOf q.desc g = 0 then d
        else engineUpd d c g fun e => { e with cmd := some q.id, pass := 0, row := 0 }) d
    else d

/-- The DONE_TALLY of a part: SIGNAL 1 to a tally of its own cluster (R85, R228). -/
def partDone (d : Dev) (p : Part) : Dev :=
  if p.failed ∨ p.done = 0xFFFF then d
  else hwSignal d (clOf p.core) (1024 * clOf p.core + p.done % 1024) 1 (.issued p.ctx p.task p.core) p.ctx

/-- Adds the cycles that the engines spent on a part to its task (R100, R104, R213). -/
def chargeCycles (d : Dev) (p : Part) : Dev :=
  let sum (f : Nat × Nat × Nat → Nat) : Nat := p.cycles.foldl (fun s e => s + f e.2) 0
  taskUpd d p.ctx p.task fun s =>
    { s with matrixCycles := satAdd 32 s.matrixCycles (sum (·.1)), rowStall := satAdd 32 s.rowStall (sum (·.2.1)),
             colStall := satAdd 32 s.colStall (sum (·.2.2)) }

/-- Copies row `row` of a part's results into its circular region: opened, written and committed as one item (R87, R100, R148, R149). -/
def copyItem (d : Dev) (c id i w row : Nat) (p : Part) : Dev :=
  let fail (code : Nat) : Dev := failPart d c id i code (regionDetail p.core p.outAddr)
  match openRow d p.ctx p.core p.outAddr w with
  | (.fault code, _) => fail code
  | (.item (some a), d) =>
    let d := (p.results.filter fun o => decide (row * w ≤ o.1 ∧ o.1 < (row + 1) * w)).foldl
      (fun d o => putLocal d p.ctx p.core (a + (o.1 - row * w)) o.2) d
    endItem d p.core p.outAddr commitItem
  | (_, d) => endItem d p.core p.outAddr commitItem

/-- Copies one part's results from staging to its output, row by row into a circular region (R100, R87). -/
def copyOut (d : Dev) (c id i : Nat) (m : MatDesc) (p : Part) : Dev :=
  if p.failed then d
  else if !p.outCirc then p.results.foldl (fun d o => putLocal d p.ctx p.core (p.outAddr + o.1) o.2) d
  else (List.range p.rows).foldl (fun d row =>
    match (cmdById (coreOf d c) id).bind fun q => q.parts[i]? with
    | none => d
    | some cur => if cur.failed then d else copyItem d c id i (outRow m p.ccb.outFmt) row p) d

/-- Results of a finished group are copied out, and the signals follow in order of acceptance; the entry is then without parts (R100). What a
FROZEN context holds stays (R337). -/
def batchCopyOut (d : Dev) (c i : Nat) : Dev :=
  let k := coreOf d c
  match k.queue[i]? with
  | none => d
  | some q =>
    if finishedBy k q && isGroup q && ctxActs d q.ctx then
      let d := (List.range q.parts.length).foldl (fun d j => match q.parts[j]? with
        | some p => copyOut d c q.id j q.desc p
        | none => d) d
      let ps := match cmdById (coreOf d c) q.id with
        | some q => q.parts
        | none => []
      let d := cmdUpd d c q.id fun q => { q with parts := [], fold := [] }
      ps.foldl partDone (ps.foldl chargeCycles d)
    else d

/-- The last output is written and DONE_TALLY performed: the entry frees (R90). A command with M = 0 or N = 0 waits until it is the oldest
(R93). -/
def completeCmd (d : Dev) (c i : Nat) : Dev :=
  let k := coreOf d c
  match k.queue[i]? with
  | none => d
  | some q =>
    if (if streams q.desc then finishedBy k q else decide (i = 0)) && !isGroup q && ctxActs d q.ctx then
      let d := coreUpd (q.parts.foldl chargeCycles d) c fun k => { k with queue := dropAt k.queue i }
      enterDue (q.parts.foldl partDone d) c
    else d

/-- Whether a command still has work on an engine, or has not started. -/
def unfinished (d : Dev) (c id : Nat) : Bool :=
  match cmdById (coreOf d c) id with
  | none => false
  | some q => if streams q.desc then !finishedBy (coreOf d c) q else false

/-- Runs the engines of a command until they have finished it. -/
def runEngines (c id : Nat) : Nat → Dev → Dev
  | 0, d => d
  | n + 1, d =>
    if unfinished d c id then
      runEngines c id n ((List.range 4).foldl (fun d g =>
        if (engineOf (coreOf d c) g).cmd = some id then matrixRow (swapTiles (loadTile d c g) c g) c g else d) d)
    else d

/-- The position of a command in its queue. -/
def placeInQueue (d : Dev) (c id : Nat) : Option Nat := (coreOf d c).queue.findIdx? fun q => decide (q.id = id)

/-- A whole command: started, run by its engines, copied out when it is a group, completed (R91 to R96). Nothing happens while earlier commands
hold its engines. -/
def runCmd (d : Dev) (c i op : Nat) : Dev :=
  match (coreOf d c).queue[i]? with
  | none => d
  | some q =>
    if q.desc.opcode ≠ op then d
    else
      let d := startCmd d c i
      let fuel := 4 * (q.desc.m + 2) * (nTiles q.desc + 1) * (tkOf q.desc + 1)
      let d := runEngines c q.id fuel d
      match placeInQueue d c q.id with
      | none => d
      | some j =>
        let d := batchCopyOut d c j
        match placeInQueue d c q.id with
        | none => d
        | some j => completeCmd d c j

/-! ### Commands -/

/-- A command at a core. -/
def atCore (c : Nat) (s : State) (go : Dev → Dev) : Host.Outcome State Fault Refusal :=
  if c < 256 then .next { s with dev := go s.dev } else .next s

def execMatrixCommandStart (c e : Nat) (s : State) : Host.Outcome State Fault Refusal := atCore c s fun d => startCmd d c e
def execTileLoadDone (c g : Nat) (s : State) : Host.Outcome State Fault Refusal := atCore c s fun d => loadTile d c g
def execBufferSwap (c g : Nat) (s : State) : Host.Outcome State Fault Refusal := atCore c s fun d => swapTiles d c g
def execMatrixRow (c g : Nat) (s : State) : Host.Outcome State Fault Refusal := atCore c s fun d => matrixRow d c g
def execMatrixCommandComplete (c e : Nat) (s : State) : Host.Outcome State Fault Refusal := atCore c s fun d => settle (completeCmd d c e)
def execBatchCopyOut (c e : Nat) (s : State) : Host.Outcome State Fault Refusal := atCore c s fun d => settle (batchCopyOut d c e)
def execMatmul (c e : Nat) (s : State) : Host.Outcome State Fault Refusal := atCore c s fun d => settle (runCmd d c e 1)
def execExactFill (c e : Nat) (s : State) : Host.Outcome State Fault Refusal := atCore c s fun d => settle (runCmd d c e 2)

end Sys2Proof.Machine
end

