-- ==== Sys2Proof/Machine/Scrub.lean ====
section
/-! DEFINITION. Scrubbing a context's residue and the way into FREE (R158 to R160, R243, R250, R261, R347). -/

namespace Sys2Proof.Machine

/-- The eight cores of a cluster. -/
def coresAt (cl : Nat) : List Nat := (List.range 8).map fun i => 8 * cl + i

/-- Drops the entries of a table whose keys lie in a range: they read as their default again. -/
def clearKeys {α : Type} (t : Table α) (lo n : Nat) : Table α := t.filter fun e => decide (e.1 < lo ∨ lo + n ≤ e.1)

/-- Ranges of keys of a cluster's SRAMs that no address reaches: data caches, cache, tile buffers, decoder queues, region records. -/
def hiddenSram (cl : Nat) : List (Nat × Nat) :=
  [(dcKey (8 * cl) 0, 2 ^ 55), (ccKey cl 0, 2 ^ 52), (tileKey (8 * cl) 0 false 0, 2 ^ 22), (decoderKey (8 * cl) 0, 2 ^ 16), (recordKey cl 0, 2 ^ 13)]

/-- Zeroes a cluster: memories with their check bits, caches, cores with engines and decoders, regions, descriptors, queues, and its
tallies (R158, R243). -/
def zeroCluster (d : Dev) (cl : Nat) : Dev :=
  let d := (coresAt cl).foldl (fun d c => coreSet (zeroRange d (spKey c 0) 0x600000) c Core.reset) d
  let d := zeroRange d (shKey cl 0) 0x1000000
  let d := (hiddenSram cl).foldl (fun d r => { d with poison := clearMarks d.poison (r.1 / 8) (r.2 / 8), upset := clearMarks d.upset (r.1 / 8) (r.2 / 8) }) d
  let d := { d with tallies := clearKeys d.tallies (1024 * cl) 1024 }
  clusterSet d cl { Cluster.reset with zeroing := true, unassigned := (clusterOf d cl).unassigned }

/-- Clears a context's clusters: dirty lines are written back, or discarded when it is killed; then everything is zeroed (R158). -/
def zeroClusters (d : Dev) (x : Nat) (discard : Bool) : Dev :=
  let cls := clustersIn (heldMask d x)
  let d := cls.foldl (fun d cl => emptyCache d cl (!discard)) d
  cls.foldl zeroCluster d

/-- Frees the tree tallies and slots of a context (R243). -/
def freeTree (d : Dev) (x : Nat) : Dev :=
  { d with tallies := d.tallies.filter fun e => !(decide (32768 ≤ e.1) && decide (e.2.owner = x)) }

/-- Unmaps every page of a context; its frames return to the pool (R250, R261). -/
def unmapAll (d : Dev) (x : Nat) : Dev :=
  let mine := d.vm.pages.filter fun e => decide (e.1 / 2 ^ 36 = x)
  let d := mine.foldl (fun d e => match e.2 with
    | some p => (match p.frame with
      | some f => if p.kind < 2 then setFrame d p.kind f false else d
      | none => d)
    | none => d) d
  { d with vm := { d.vm with pages := d.vm.pages.filter fun e => decide (e.1 / 2 ^ 36 ≠ x) } }

/-- A load that runs when its context ends is ABORTED (R280). -/
def abortLoad (l : LoadSt) : LoadSt := if l.state = 1 then { l with state := 3, reason := 1 } else l

/-- Resets a context's block of queue registers and discards its queue; completion records that wait stay (R347, R351).
Log entry 78, DEDUCED. -/
def resetSq (d : Dev) (x : Nat) : Dev := sqUpd d x fun q => { Sq.reset with cqWait := q.cqWait }

/-- The context is FREE: its pages are unmapped, the tree nodes that it still held are freed and its block of queue registers is reset
(R243, R261, R347). Its counts stay until CREATE. -/
def toFree (d : Dev) (x : Nat) : Dev :=
  let d := unmapAll (freeTree d x) x
  let k := ctxOf d x
  resetSq (ctxSet d x { Ctx.reset with stale := k.stale, sent := k.sent, expected := k.expected, load := abortLoad k.load }) x

/-- Scrubbing begins, for END (or KILL, which discards dirty lines) (R158, R243, R261, R270, R305). -/
def beginScrub (d : Dev) (x : Nat) (killed : Bool) : Dev :=
  let d := (dropTrains (withdrawFaults d x) x).1
  let d := freeTree (zeroClusters d x killed) x
  ctxUpd d x fun k => { k with
    state := .scrubbing, ending := true, killed := killed, hkind := 0, harvesting := false, adopting := false, stalled := false,
    graph := none, log := [], saved := [], tables := [], reserved := [], east := .reset, west := .reset, freezing := false,
    load := abortLoad k.load }

/-- A context with nothing left to zero passes SCRUBBING at once. -/
def passScrub (d : Dev) (x : Nat) : Dev := if heldMask d x = 0 then toFree d x else d

end Sys2Proof.Machine
end

