-- ==== Sys2Proof/Machine/Graphs.lean ====
section
/-! DEFINITION. Task graphs and stream channels (R199 to R220): acceptance, dispatch, completion, timeouts, cancellation, channels. -/

namespace Sys2Proof.Machine

/-! ### Loading (R199, R204, R217) -/

/-- Reads context memory for a graph unit; none when it cannot be read (log entry 40, DESIGN CHOICE). -/
def unitRead (d : Dev) (x va n : Nat) : Option (List Byte) × Dev :=
  if 2 ^ 52 < va + n then (none, d)
  else match readVa d x va n with
    | .ok b d => (some b, d)
    | .bad d => (none, d)
    | .wait d => (none, d)
    | .page _ _ d => (none, d)
    | .resource _ d => (none, d)

/-- Writes context memory for a graph unit; a record that cannot be written is skipped (log entry 40, DESIGN CHOICE). -/
def unitWrite (d : Dev) (x va : Nat) (bs : List Byte) : Dev :=
  if 2 ^ 52 < va + bs.length then d
  else match writeVa d x va bs with
    | .ok _ d => d
    | .bad d => d
    | .wait d => d
    | .page _ _ d => d
    | .resource _ d => d

/-- Order 1 of R204. -/
def graphOk (va : Word) (b : List Byte) : Bool :=
  decide (va.toNat % 64 = 0) && decide (1 ≤ fld b 8 4) && decide (fld b 8 4 ≤ 65536) && decide (fld b 32 1 ≤ 64) &&
    decide (fld b 0 8 % 128 = 0) && decide (fld b 16 8 % 64 = 0) && (decide (fld b 32 1 = 0) || decide (fld b 24 8 % 16 = 0))

/-- Whether what the graph unit reads of a graph waits for the host (R345): its descriptor, task descriptors and channel records. -/
def graphWaits (d : Dev) (x : Nat) (va : Word) : Bool :=
  hostWaits d x va.toNat 64 || (match (unitRead d x va.toNat 64).1 with
    | some b => graphOk va b && (hostWaits d x (fld b 0 8) (128 * fld b 8 4) || hostWaits d x (fld b 24 8) (16 * fld b 32 1))
    | none => false)

/-- A task that waits. -/
def newTask (t : TaskDesc) : TaskSt :=
  { desc := t, phase := .waiting, started := [], ended := [], flags := 0, stats := Stats.zero, startTime := 0, fault := none,
    cancelled := false, cycles := 0, matrixCycles := 0, rowStall := 0, colStall := 0 }

/-- Whether a task goes with those read before it: no start tally and no persistent cluster is shared (R204). -/
def taskAgrees (prior : List TaskDesc) (t : TaskDesc) : Bool :=
  prior.all fun p =>
    !(decide (0 < t.pred) && decide (0 < p.pred) && decide (t.startTally % 32768 = p.startTally % 32768)) &&
      !(t.persist && p.persist && decide (t.clusters &&& p.clusters ≠ 0))

/-- Reads the task descriptors from index `i` on: the tasks, or the index of the first that breaks order 2 of R204. -/
def readTasks (x base : Nat) : Nat → Nat → List TaskDesc → Dev → Except Nat (List TaskDesc) × Dev
  | 0, _, acc, d => (.ok acc, d)
  | n + 1, i, acc, d =>
    match unitRead d x (base + 128 * i) 128 with
    | (none, d) => (.error i, d)
    | (some b, d) =>
      let t := parseTask b
      if taskValid d x t && taskAgrees acc t then readTasks x base n (i + 1) (acc ++ [t]) d else (.error i, d)

/-- A channel record (R217). -/
def parseChan (b : List Byte) : Chan :=
  ⟨fld b 0 1, fld b 1 1, fld b 2 1, fld b 3 1, fld b 4 2, fld b 6 2, none, false⟩

/-- R217. -/
def chanOk (d : Dev) (x : Nat) (prior : List Chan) (h : Chan) : Bool :=
  decide (h.srcCl < 32) && decide (h.dstCl < 32) && bit (maskOf d x) h.srcCl && bit (maskOf d x) h.dstCl &&
    decide (h.srcCl ≠ h.dstCl) && decide (h.srcRg < 64) && decide (h.dstRg < 64) &&
    (prior.all fun p => !(decide (p.srcCl = h.srcCl) && decide (p.srcRg = h.srcRg)) &&
      !(decide (p.dstCl = h.dstCl) && decide (p.dstRg = h.dstRg)))

/-- Reads the channel records from index `i` on. -/
def readChans (x base : Nat) : Nat → Nat → List Chan → Dev → Except Nat (List Chan) × Dev
  | 0, _, acc, d => (.ok acc, d)
  | n + 1, i, acc, d =>
    match unitRead d x (base + 16 * i) 16 with
    | (none, d) => (.error i, d)
    | (some b, d) =>
      let h := parseChan b
      if chanOk d x acc h then readChans x base n (i + 1) (acc ++ [h]) d else (.error i, d)

/-- Refuses a graph: no task runs, no tally is touched (R204). After a cancellation no fault counts: it ends without tasks (R215). -/
def refuseGraph (d : Dev) (x code idx : Nat) (detail : Word) : Dev :=
  graphUpd d x fun g => { g with
    stopped := true, startTime := d.otime.count, accepted := g.cancelled, fault := if g.cancelled then none else some (code, idx, 0, detail) }

/-- A start tally in counter mode with count 0, watched for its task (R204, R205). -/
def startTally (d : Dev) (x i : Nat) (t : TaskDesc) : Dev :=
  if t.pred = 0 then d
  else
    let k := t.startTally % 32768
    let y := tallyOf d k
    tallySet d k { y with
      inuse := true, barrier := false, up := false, count := 0, p := 0, parent := 0, owner := x, paths := [],
      line := y.line ++ [(.start x i, BitVec.ofNat 24 t.pred, none)] }

/-- Starts the send lists of a context at their first entry; its landing table and first entries are read (R287, R295). -/
def startSends (d : Dev) (x : Nat) : Dev :=
  let read (d : Dev) (want : Bool) (va n : Nat) : Option (List Byte) × Dev := if want then unitRead d x va n else (none, d)
  let east := decide (og d 0x3023 (x + 1) ≠ 0)
  let west := decide (og d 0x3025 (x + 1) ≠ 0)
  let (t, d) := read d (decide (og d 0x3021 (x + 1) ≠ 0)) (og d 0x3021 (x + 1)) 4096
  let (e, d) := read d east (og d 0x3022 (x + 1)) 32
  let (w, d) := read d west (og d 0x3024 (x + 1)) 32
  ctxUpd (leaveSends d x) x fun k => { k with
    landing := t.getD [], east := { SendList.reset with on := east, first := e }, west := { SendList.reset with on := west, first := w } }

/-- An accepted graph: start tallies are set, channels are active, tasks without predecessors become ready in order (R204). -/
def acceptGraph (d : Dev) (x : Nat) (ts : List TaskDesc) (cs : List Chan) : Dev :=
  let d := graphUpd d x fun g => { g with
    accepted := true, chans := cs, startTime := d.otime.count,
    tasks := (List.range ts.length).zip (ts.map fun t => some (newTask t)) }
  let d := ((List.range ts.length).zip ts).foldl (fun d e => startTally d x e.1 e.2) d
  ((List.range ts.length).zip ts).foldl (fun d e => if e.2.pred = 0 then taskReady d x e.1 else d) d

/-- The graph unit has read a graph's descriptors (R204). Log entry 66, DEDUCED. -/
def loadGraph (d : Dev) (x : Nat) (g : Graph) : Dev :=
  match unitRead d x g.va.toNat 64 with
  | (none, d) => let (n, d) := draw d; refuseGraph d x 0x1071 0xFFFFFFFF (BitVec.ofNat 64 (Config.number n))
  | (some b, d) =>
    let d := graphUpd d x fun g => { g with
      taskBase := fld b 0 8, taskCount := fld b 8 4, id := fld b 12 4, complBase := fld b 16 8 }
    if !graphOk g.va b then let (n, d) := draw d; refuseGraph d x 0x1071 0xFFFFFFFF (BitVec.ofNat 64 (Config.number n))
    else match readTasks x (fld b 0 8) (fld b 8 4) 0 [] d with
      | (.error i, d) => refuseGraph d x 0x1072 i (BitVec.ofNat 64 i)
      | (.ok ts, d) => match readChans x (fld b 24 8) (fld b 32 1) 0 [] d with
        | (.error i, d) => refuseGraph d x 0x1073 0xFFFFFFFF (BitVec.ofNat 64 i)
        | (.ok cs, d) => acceptGraph d x ts cs

/-- GRAPH_ACCEPT (R204). -/
def graphAccept (d : Dev) (x : Nat) : Dev :=
  match (ctxOf d x).graph with
  | none => d
  | some g =>
    if (ctxOf d x).state = .running ∧ g.accepted = false ∧ g.fault = none ∧ graphWaits d x g.va = false then loadGraph d x g else d

def execGraphAccept (x : Nat) (s : State) : Host.Outcome State Fault Refusal := atCtx x s fun d => graphAccept d x

/-! ### Dispatch (R207 to R210) -/

/-- Whether matrix work, a DMA descriptor or a run holds a core (R211). -/
def coreFree (d : Dev) (c : Nat) : Bool :=
  (coreOf d c).inst.isNone && decide ((coreOf d c).status = .idle) &&
    ((partsIn d (clOf c)).all fun p => decide (p.core ≠ c)) &&
    ((clusterOf d (clOf c)).dma.all fun e => match e.2 with | some s => decide (s.core ≠ c) | none => true)

/-- Ones among the lowest `n` bits. -/
def ones (m n : Nat) : Nat := ((List.range n).filter fun i => bit m i).length

/-- Cores that run instances of a task: in each cluster of CLUSTER_MASK those of CORE_MASK (R201). -/
def taskCores (t : TaskDesc) : List Nat := (clustersIn t.clusters).flatMap fun cl => (coresAt cl).filter fun c => bit t.cores (c % 8)

/-- Whether a queued task can start on a core (R208, R210). -/
def canStart (d : Dev) (x c t : Nat) : Bool :=
  match taskOf d x t with
  | none => false
  | some s =>
    bit s.desc.cores (c % 8) && !s.started.contains c && s.fault.isNone && !s.cancelled &&
      (match (clusterOf d (clOf c)).persist with | some h => decide (h = (x, t)) | none => true)

/-- PRIO of a task. -/
def prioOf (d : Dev) (x t : Nat) : Nat := match taskOf d x t with | some s => s.desc.prio | none => 0

/-- The first of the candidates in queue order: higher PRIO first, then earlier arrival (R208). -/
def pick (d : Dev) (x : Nat) : List Nat → Option Nat
  | [] => none
  | t :: r => match pick d x r with
    | none => some t
    | some u => if prioOf d x t < prioOf d x u then some u else some t

/-- Lets marked tasks enter a ready queue that has room, in increasing task index (R207). -/
def refill (k : Cluster) : Nat → Cluster
  | 0 => k
  | n + 1 =>
    if k.ready.length < 512 then
      match k.waiting with
      | [] => k
      | h :: r =>
        let m := r.foldl (fun a b => if b.2 < a.2 then b else a) h
        refill { k with ready := k.ready ++ [m], waiting := (h :: r).filter fun e => decide (e ≠ m) } n
    else k

/-- Takes tasks out of a cluster's queue and bitmap. -/
def unqueue (d : Dev) (cl : Nat) (gone : Nat × Nat → Bool) : Dev :=
  clusterUpd d cl fun k =>
    refill { k with ready := k.ready.filter fun e => !gone e, waiting := k.waiting.filter fun e => !gone e } 512

/-- The state in which a run starts (R209); the core's matrix queue is its cluster's batcher's as well. -/
def newRun (k : Core) (x c t : Nat) (s : TaskDesc) : Core :=
  let idx := ones s.clusters (clOf c) * ones s.cores 8 + ones s.cores (c % 8)
  let cnt := ones s.clusters 32 * ones s.cores 8
  let k' : Core := { Core.reset with
    pc := s.prog, lfsr := laneLfsrInit s.seed, status := .running, halfCycles := 128, queue := k.queue, nextCmd := k.nextCmd, engines := k.engines,
    inst := some ⟨x, t, idx, cnt, s.ftz, s.seed⟩ }
  setX (setX (setX (setX (setX k' 1 s.arg) 2 (BitVec.ofNat 64 idx)) 3 (BitVec.ofNat 64 cnt)) 4 (BitVec.ofNat 64 t)) 5
    (BitVec.ofNat 64 c)

/-- Starts an instance of task `t` on core `c` (R208 to R210, R213). -/
def startInst (d : Dev) (x c t : Nat) (s : TaskSt) : Dev :=
  let cl := clOf c
  let d := taskUpd d x t fun s => { s with
    phase := .running, started := s.started ++ [c], startTime := if s.started = [] then d.otime.count else s.startTime }
  let d := coreUpd d c fun k => newRun k x c t s.desc
  let d := if s.desc.persist then clusterUpd d cl fun k => { k with persist := some (x, t) } else d
  if ((coresAt cl).all fun e => !bit s.desc.cores (e % 8) || e = c || s.started.contains e) then
    unqueue d cl fun e => decide (e = (x, t)) else d

/-- INSTANCE_START: the graph unit of a free core's cluster starts an instance on it (R208). -/
def instanceStart (d : Dev) (c : Nat) : Dev :=
  match holder d (clOf c) with
  | none => d
  | some x =>
    match (ctxOf d x).graph with
    | none => d
    | some g =>
      if (ctxOf d x).state = .running ∧ g.accepted ∧ g.stopped = false ∧ coreFree d c then
        match pick d x ((((clusterOf d (clOf c)).ready.filter fun e => decide (e.1 = x)).map (·.2)).filter (canStart d x c)) with
        | none => d
        | some t => (match taskOf d x t with
          | some s => startInst d x c t s
          | none => d)
      else d

def execInstanceStart (c : Nat) (s : State) : Host.Outcome State Fault Refusal := atCore c s fun d => instanceStart d c

/-! ### Completion (R211 to R213) -/

/-- The 256 + 32 bytes of a statistics record (R80). -/
def statsBytes (s : Stats) : List Byte :=
  ((List.range 64).flatMap fun i => toLE 4 (look 0 s.bins i)) ++ toLE 4 s.clipLo ++ toLE 4 s.clipHi ++ toLE 4 s.scExtra ++
    toLE 4 s.accSat ++ toLE 4 s.ufZero ++ toLE 4 s.blocks ++ toLE 4 s.sidecars ++ zeros 4

/-- A completion record (R213). -/
def recordBytes (kind status : Nat) (flags : Half) (idx code unit id : Nat) (detail : Word) (stats : Nat) (start stop : Word)
    (counts : Nat × Nat × Nat × Nat) : List Byte :=
  let sat (n : Nat) : List Byte := toLE 4 (min n 0xFFFFFFFF)
  toLE 1 kind ++ toLE 1 status ++ toLE 2 flags.toNat ++ toLE 4 idx ++ toLE 2 code ++ toLE 2 (unit % 256) ++ toLE 4 id ++
    toLE 8 detail.toNat ++ toLE 8 stats ++ toLE 8 start.toNat ++ toLE 8 stop.toNat ++ sat counts.1 ++ sat counts.2.1 ++
    sat counts.2.2.1 ++ sat counts.2.2.2

/-- STATUS of a task (R213 to R215). -/
def taskStatus (s : TaskSt) : Nat := if s.cancelled then 2 else if s.fault.isSome then 1 else 0

/-- Whether the runs and commands of a task have all completed (R211, R214): once its graph has stopped, those that started suffice (log
entry 41, DEDUCED). -/
def taskOver (d : Dev) (x t : Nat) (g : Graph) (s : TaskSt) : Bool :=
  (s.started.all fun c => s.ended.contains c) &&
    (g.stopped || s.fault.isSome || s.cancelled || ((taskCores s.desc).all fun c => s.started.contains c)) &&
    ((clustersIn (maskOf d x)).all fun cl =>
      ((partsIn d cl).all fun p => !(decide (p.ctx = x) && decide (p.task = t))) &&
        ((clusterOf d cl).dma.all fun e => match e.2 with
          | some m => !(decide (m.ctx = x) && decide (m.task = t))
          | none => true))

/-- One successor entry (R211, R228). -/
def successor (d : Dev) (x t home : Nat) (e : Nat × Nat) : Dev :=
  let op : TallyOp := if (tallyOf d (e.1 % 32768)).barrier then .arrive else .signal (BitVec.ofNat 24 e.2)
  tallyFrom d home (e.1 % 32768) ⟨clusterRef e.1, op, .successor x t, x, 0⟩

/-- Queues a completion record for the context's ring (R351). Log entry 19, DEDUCED. -/
def postRecord (d : Dev) (x : Nat) (rcd : List Byte) : Dev := sqUpd d x fun q => { q with cqWait := q.cqWait ++ [rcd] }

/-- The four steps of R211. -/
def completeTask (d : Dev) (x t : Nat) (g : Graph) (s : TaskSt) : Dev :=
  let st := taskStatus s
  let (code, unit, detail) := if s.cancelled then (0, 0, 0) else s.fault.getD (0, 0, 0)
  let d := (clustersIn s.desc.clusters).foldl (fun d cl => unqueue d cl fun e => decide (e = (x, t))) d
  let d := taskUpd d x t fun s => { s with phase := .done st }
  let d := if s.desc.stats = 0 then d else unitWrite d x s.desc.stats (statsBytes s.stats)
  let rcd := recordBytes 1 st s.flags t code unit g.id detail s.desc.stats s.startTime d.otime.count
    (s.cycles, s.matrixCycles, s.rowStall, s.colStall)
  let d := unitWrite d x (g.complBase + 64 * t) rcd
  let d := if st = 0 then (s.desc.succ.take s.desc.succCount).foldl (fun d e => successor d x t (homeOf s.desc.clusters) e) d else d
  if s.desc.notify then postRecord d x rcd else d

/-- Whether a context's graph may complete tasks: it runs, or a pre-emption waits for it. -/
def graphMoves (d : Dev) (x : Nat) : Bool :=
  let k := ctxOf d x
  decide (k.state = .running) || (decide (k.state = .preempting) && decide (k.hkind = 1) && !k.harvesting)

/-- TASK_COMPLETE (R211). -/
def taskComplete (d : Dev) (x t : Nat) : Dev :=
  match (ctxOf d x).graph, taskOf d x t with
  | some g, some s =>
    if s.phase = .running ∧ graphMoves d x ∧ taskOver d x t g s ∧ hostWaits d x (g.complBase + 64 * t) 64 = false ∧
        (s.desc.stats = 0 ∨ hostWaits d x s.desc.stats 288 = false) then completeTask d x t g s
    else d
  | _, _ => d

def execTaskComplete (x t : Nat) (s : State) : Host.Outcome State Fault Refusal := atCtx x s fun d => settle (taskComplete d x t)

/-- TASK_TIMEOUT: the task faults, charged to its lowest instance that still runs (R201, R214). -/
def taskTimeout (d : Dev) (x t : Nat) : Dev :=
  match taskOf d x t with
  | none => d
  | some s =>
    if s.phase = .running ∧ s.desc.timeout ≠ 0 ∧ s.fault = none ∧ s.cancelled = false ∧ graphMoves d x then
      taskFail d x t (((taskCores s.desc).find? (runs d x t)).getD 0) 0x1061 0
    else d

def execTaskTimeout (x t : Nat) (s : State) : Host.Outcome State Fault Refusal := atCtx x s fun d => taskTimeout d x t

/-! ### Stream channels (R218 to R220) -/

/-- The regions at the ends of a channel. -/
def chanSrc (d : Dev) (h : Chan) : Region := regionOf d h.srcCl h.srcRg
def chanDst (d : Dev) (h : Chan) : Region := regionOf d h.dstCl h.dstRg

/-- Where item `i` of a region of cluster shared memory lies, when it is addressable (R137). -/
def sharedItem (d : Dev) (cl : Nat) (r : Region) (i : Nat) : Option Nat := itemKey d (8 * cl) r i r.item

/-- Whether a channel can take an item (R218). -/
def chanReady (d : Dev) (h : Chan) : Bool :=
  let s := chanSrc d h
  let t := chanDst d h
  !h.stopped && h.flight.isNone && s.valid && t.valid && decide (s.item = t.item) && decide (s.count ≠ 0) && !s.taken &&
    decide (t.count < t.cap) && !t.opened

def chanUpd (d : Dev) (x ch : Nat) (f : Chan → Chan) : Dev :=
  graphUpd d x fun g => match g.chans[ch]? with
    | some h => { g with chans := setAt g.chans ch (f h) }
    | none => g

/-- A fault of a channel stops it and its graph (R214, R218); an item outside the addressable memory is one. Log entry 148, DEDUCED. -/
def chanFail (d : Dev) (x ch : Nat) : Dev :=
  graphFault (chanUpd d x ch fun h => { h with stopped := true }) x 0x1073 0xFFFFFFFF 0 (BitVec.ofNat 64 ch)

/-- A channel's accesses to the records of its regions (R156). -/
def chanRecords (d : Dev) (x : Nat) (h : Chan) : Dev := recordRead (recordRead d x h.srcCl h.srcRg) x h.dstCl h.dstRg

/-- CHANNEL_ITEM_MOVE: takes the source item as consumer and opens the destination as producer; a side that an RFLUSH has turned discards as
R148 states (R218, R220). -/
def channelMove (d : Dev) (x ch : Nat) : Dev :=
  match (ctxOf d x).graph.bind fun g => if g.accepted then g.chans[ch]? else none with
  | none => d
  | some h =>
    if !(decide ((ctxOf d x).state = .running) || (graphMoves d x && tasksRun d x)) || fabricFlagged d h.srcCl 2 then d
    else
      let s := chanSrc d h
      let t := chanDst d h
      if h.stopped then d
      else if h.flight.isNone && s.valid && t.valid && decide (s.item ≠ t.item) then chanFail d x ch
      else if chanReady d h then
        let d := chanRecords d x h
        match consume s, sharedItem d h.srcCl s (takenItem s), sharedItem d h.dstCl t t.tail with
        | .complete s', some k, some _ =>
          let f := (memBytes d k s.item, memMarks d k s.item)
          let d := chanUpd (regionSet (eccRead d x k s.item) h.srcCl h.srcRg s') x ch fun h => { h with flight := some f }
          (match produce t with
          | .complete t' => regionSet d h.dstCl h.dstRg t'
          | _ => d)
        | _, _, _ => chanFail d x ch
      else d

def execChannelItemMove (x ch : Nat) (s : State) : Host.Outcome State Fault Refusal := atCtx x s fun d => channelMove d x ch

/-- A signal of a channel to a tally of cluster `cl`; 0xFFFF for none (R217, R218). -/
def chanSignal (d : Dev) (x ch cl idx : Nat) : Dev :=
  if idx = 0xFFFF then d else hwSignal d cl (1024 * cl + idx % 1024) 1 (.channel x ch) x

/-- CHANNEL_DELIVER: commits the destination, signals it, releases the source, signals it; an RFLUSH in between turns either side to
TRUNCATED (R218, R220). -/
def channelDeliver (d : Dev) (x ch : Nat) : Dev :=
  match (ctxOf d x).graph.bind fun g => g.chans[ch]? with
  | none => d
  | some h =>
    let k := ctxOf d x
    match h.flight with
    | none => d
    | some f =>
      if (k.state = .running ∨ k.state = .preempting ∨ k.state = .reclaiming) ∧ k.harvesting = false then
        let d := chanRecords (chanUpd d x ch fun h => { h with flight := none }) x h
        let t := chanDst d h
        let d := match commitItem t, sharedItem d h.dstCl t t.tail with
          | .complete t', some a =>
            chanSignal (regionSet (poisonFrom (memWrite d x a f.1) a f.2) h.dstCl h.dstRg t') x ch h.dstCl h.dstTally
          | .truncated t', _ => regionSet d h.dstCl h.dstRg t'
          | _, _ => d
        match releaseItem (chanSrc d h) with
        | .complete s' => chanSignal (regionSet d h.srcCl h.srcRg s') x ch h.srcCl h.srcTally
        | .truncated s' => regionSet d h.srcCl h.srcRg s'
        | _ => d
      else d

def execChannelDeliver (x ch : Nat) (s : State) : Host.Outcome State Fault Refusal := atCtx x s fun d => settle (channelDeliver d x ch)

/-! ### The end of a graph (R212, R214, R215) -/

/-- Whether a message on its way is charged to a graph of context `x` (R230). -/
def chargedTo (x : Nat) (m : TallyMsg) : Bool :=
  match m.charge with
  | .instruction y _ _ _ => decide (y = x)
  | .issued y _ _ => decide (y = x)
  | .successor y _ => decide (y = x)
  | .channel y _ => decide (y = x)
  | _ => false

/-- Whether a train of a context's own send lists waits or is being sent. -/
def ownQueued (d : Dev) (x : Nat) : Bool := d.ports.any fun e => e.2.egress.any fun t => decide (t.ctx = x) && t.own.isSome

/-- Whether the send lists no longer hold their graph: those of a bound context have run every entry, or a cancellation stopped them, and
no train of theirs is being sent (R287, R295). -/
def sendsDone (d : Dev) (x : Nat) : Bool :=
  let k := ctxOf d x
  decide (og d 0x3020 (x + 1) ≠ 1) || (!k.east.on && !k.west.on && !ownQueued d x)

/-- Whether a graph is complete (R212): refused, or no task runs, none will run that has not, and every channel is idle.
Log entry 77, DEDUCED. -/
def graphOver (d : Dev) (x : Nat) (g : Graph) : Bool :=
  if g.accepted then
    (g.tasks.all fun e => match e.2 with
      | some s => (match s.phase with
        | .running => false
        | .done _ => true
        | _ => g.stopped)
      | none => true) &&
      (g.chans.all fun h => h.flight.isNone && !chanReady d h) && sendsDone d x && !(d.inflight.any (chargedTo x))
  else g.fault.isSome

/-- How many tasks stand in a phase. -/
def tasksIn (g : Graph) (p : TaskPhase → Bool) : Nat :=
  (g.tasks.filter fun e => match e.2 with | some s => p s.phase | none => false).length

/-- A done task's STATUS. -/
def phaseStatus : TaskPhase → Option Nat
  | .done n => some n
  | _ => none

/-- The graph record (R213); a refused graph ran none of its tasks. -/
def graphRecord (d : Dev) (g : Graph) : List Byte :=
  let st := if g.fault.isSome then 1 else if g.cancelled then 2 else 0
  let (code, idx, unit, detail) := g.fault.getD (0, 0xFFFFFFFF, 0, 0)
  let flags := g.tasks.foldl (fun f e => match e.2 with | some s => if (phaseStatus s.phase).isSome then f ||| s.flags else f | none => f) 0
  let ok := tasksIn g fun p => decide (phaseStatus p = some 0)
  let bad := tasksIn g fun p => (phaseStatus p).isSome && decide (phaseStatus p ≠ some 0)
  recordBytes 2 st flags idx code unit g.id detail 0 g.startTime d.otime.count (ok, bad, g.taskCount - ok - bad, 0)

/-- Start watches, queue entries and persistent holds end with their graph (R205, R212). -/
def releaseGraph (d : Dev) (x : Nat) : Dev :=
  let d := { d with tallies := d.tallies.map fun e => (e.1, { e.2 with line := e.2.line.filter fun w =>
    match w.1 with | .start y _ => decide (y ≠ x) | _ => true }) }
  (clustersIn (maskOf d x)).foldl (fun d cl => clusterUpd (unqueue d cl fun e => decide (e.1 = x)) cl fun k =>
    { k with persist := none }) d

/-- The graph record is written and posted, and the context has no active graph (R212); an ending context goes on to SCRUBBING (R261). -/
def finishGraph (d : Dev) (x : Nat) (g : Graph) : Dev :=
  let rcd := graphRecord d g
  let d := postRecord (unitWrite d x (g.complBase + 64 * g.taskCount) rcd) x rcd
  let d := releaseGraph d x
  let d := ctxUpd d x fun k => { k with graph := none, state := if k.state = .running then .idle else k.state }
  if (ctxOf d x).ending ∧ (ctxOf d x).state = .idle then passScrub (beginScrub d x false) x else d

/-- GRAPH_COMPLETE (R212). -/
def graphComplete (d : Dev) (x : Nat) : Dev :=
  match (ctxOf d x).graph with
  | none => d
  | some g =>
    if graphMoves d x ∧ graphOver d x g ∧ hostWaits d x (g.complBase + 64 * g.taskCount) 64 = false then finishGraph d x g else d

def execGraphComplete (x : Nat) (s : State) : Host.Outcome State Fault Refusal := atCtx x s fun d => settle (graphComplete d x)

/-- A cancellation stops the send lists after the train that each is sending, and DONE_TALLY is not performed; a train not begun is not
sent (R295). -/
def cancelSends (d : Dev) (x : Nat) : Dev :=
  let cut (p : Port) : Port := { p with
    egress := (p.egress.filter fun t => !(decide (t.ctx = x) && t.own.isSome && t.stream.isNone)).map fun t =>
      if t.ctx = x then { t with own := t.own.map fun o => { o with done := 0xFFFF } } else t }
  ctxUpd { leaveSends d x with ports := d.ports.map fun e => (e.1, cut e.2) } x fun k =>
    { k with east := { k.east with on := false, waiting := false }, west := { k.west with on := false, waiting := false } }

/-- A cancellation of the active graph (R215): dispatch stops, every running instance stops, and the send lists stop (R295). -/
def cancelGraph (d : Dev) (x : Nat) : Dev :=
  match (ctxOf d x).graph with
  | none => d
  | some g =>
    if g.cancelled ∨ (ctxOf d x).state = .frozen then d
    else
      let d := graphUpd d x fun g => { g with stopped := true, cancelled := true }
      let live := g.tasks.filter fun e => match e.2 with | some s => decide (s.phase = .running) | none => false
      let d := live.foldl (fun d e => taskUpd d x e.1 fun s => { s with cancelled := s.fault.isNone }) d
      let cores := live.flatMap fun e => match e.2 with | some s => s.started.filter (runs d x e.1) | none => []
      cancelSends (reexamine (cores.foldl stopInst d)) x

/-- CANCEL: writing 1 cancels; other values are ignored (R347, R215). Log entry 86, DEDUCED. -/
def execCancel (x : Nat) (v : W32) (s : State) : Host.Outcome State Fault Refusal :=
  onBar0 x s fun d => if v = 1 then cancelGraph d x else d

end Sys2Proof.Machine
end

