-- ==== Sys2Proof/Machine/Bar0.lean ====
section
/-! DEFINITION. BAR0 of the host endpoint (R344 to R352): plain register writes, submission queues, completion and fault rings, MSI-X
masks. -/

namespace Sys2Proof.Machine

/-! ### Plain writes (R346, R353, R355, R356) -/

def hostSet (d : Dev) (f : HostIf → HostIf) : Dev := { d with host := f d.host }

/-- Sends the held messages of vectors that can leave now (R345, R356). -/
def flushMsix (d : Dev) : Dev :=
  (List.range 130).foldl (fun d v =>
    if look false d.host.msixPend v && msixCan d v then
      msixSend (hostSet d fun h => { h with msixPend := put false h.msixPend v false }) v
    else d) d

/-- One aligned dword of the MSI-X table: address, data or vector control, bit 0 of which masks the vector (R346). -/
def msixWrite (d : Dev) (off v : Nat) : Dev :=
  let vec := off / 16
  if 130 ≤ vec then d
  else hostSet d fun h =>
    let a := (look 0 h.msixAddr vec).toNat
    match off % 16 / 4 with
    | 0 => { h with msixAddr := put 0 h.msixAddr vec (BitVec.ofNat 64 (a / 2 ^ 32 * 2 ^ 32 + v)) }
    | 1 => { h with msixAddr := put 0 h.msixAddr vec (BitVec.ofNat 64 (a % 2 ^ 32 + v * 2 ^ 32)) }
    | 2 => { h with msixData := put 0 h.msixData vec (BitVec.ofNat 32 v) }
    | _ => { h with msixOpen := put false h.msixOpen vec (!bit v 0) }

/-- The dwords of an MSI-X table write. -/
def msixWrites (off : Nat) : Nat → List Byte → Dev → Dev
  | 0, _, d => d
  | n + 1, bs, d => msixWrites (off + 4) n (bs.drop 4) (msixWrite d off (leNat (bs.take 4)))

/-- WIN_CTRL with its reserved bits zero (R353). -/
def winCtrlBits (v : Nat) : Nat := v % 4 + bits v 18 8 * 256

/-- A BAR0 write of a register without a row of its own: queue slots, IRQ_ENABLE, MB_REQ, the MSI-X table, the window registers,
WF_IRQ_ENABLE. Reserved space and a write of another width than the register's are ignored (R346, R347, R356; log entry 18, DESIGN CHOICE). -/
def bar0Write (d : Dev) (p : Posted) : Dev :=
  let v := leNat p.data
  let n := p.data.length
  if 0x2010000 ≤ p.off ∧ p.off < 0x2010820 then
    if p.off % 4 = 0 ∧ n % 4 = 0 then flushMsix (msixWrites (p.off - 0x2010000) (n / 4) p.data d) else d
  else
    let d := wakeBy d 1
    if p.off < 0x2000000 then
      let x := p.off / 0x80000
      let r := p.off % 0x80000
      if r + n ≤ 0x4000 then sqUpd d x fun q => { q with slots := writeMem q.slots r p.data }
      else if r = 0x404C ∧ n = 4 then sqUpd d x fun q => { q with irq := BitVec.ofNat 32 (v % 4) }
      else d
    else if p.off < 0x2004000 ∧ p.off + n ≤ 0x2004000 then hostSet d fun h => { h with req := writeMem h.req (p.off - 0x2000000) p.data }
    else if 0x2020000 ≤ p.off ∧ p.off < 0x2020080 then
      let a := (p.off - 0x2020000) / 16
      if p.off % 16 = 0 ∧ n = 4 then hostSet d fun h => { h with winCtrl := put 0 h.winCtrl a (BitVec.ofNat 32 (winCtrlBits v)) }
      else if p.off % 16 = 8 ∧ n = 8 then
        hostSet d fun h => { h with winBase := put 0 h.winBase a (BitVec.ofNat 64 (v / 2097152 * 2097152)) }
      else d
    else if p.off = 0x2030000 ∧ n = 4 then hostSet d fun h => { h with wfIrq := BitVec.ofNat 32 (v % 2) }
    else d

/-- The writes that the host posted before a command arrive first, in order. -/
def posted (d : Dev) (pre : List Posted) : Dev := pre.foldl bar0Write d

/-! ### Submission queues (R348 to R350) -/

/-- An entry of a submission queue. -/
def sqEntry (q : Sq) (n : Nat) : List Byte := readMem q.slots (64 * (n % 256)) 64

/-- Slots written and not yet taken. -/
def sqUsed (q : Sq) : Nat := (q.tail - q.head).toNat

/-- LEN of the item at a slot; an entry whose LEN is out of range stands alone (log entry 42, DEDUCED). -/
def itemLen (q : Sq) (n : Nat) : Nat :=
  let l := fld (sqEntry q n) 1 1
  if 1 ≤ l ∧ l ≤ 8 then l else 1

/-- SQ_TAIL, the doorbell (R347, R349). -/
def execSqTail (x : Nat) (v : W32) (pre : List Posted) (s : State) : Host.Outcome State Fault Refusal :=
  onBar0 x s fun d => sqUpd (posted d pre) x fun q => { q with tail := v.setWidth 8 }

/-- Whether every entry of the item at the head agrees with it (R348, R349). -/
def itemAgrees (q : Sq) : Bool :=
  let e := sqEntry q q.head.toNat
  let n := itemLen q q.head.toNat
  decide (fld e 1 1 = n) && ((List.range n).all fun i =>
    let e' := sqEntry q (q.head.toNat + i)
    decide (fld e' 0 1 = fld e 0 1) && decide (fld e' 1 1 = n) && decide (fld e' 2 1 = i))

/-- The data of a WRITE item (R348). -/
def itemData (q : Sq) (n : Nat) : List Byte :=
  (sqEntry q q.head.toNat).drop 20 ++ (List.range (n - 1)).flatMap fun i => (sqEntry q (q.head.toNat + i + 1)).drop 4

/-- Whether a range is mapped, writable when asked, and every HBM or tier page of it holds its frame (R349, R354; log entry 43, DEDUCED). -/
def usable (d : Dev) (x va n : Nat) (write : Bool) : Bool :=
  decide (va + n ≤ 2 ^ 52) && (splitVa (n / 65536 + 2) va n).all fun e => match pageAt d x e.1 with
    | some p => (decide (p.kind = 2) || p.frame.isSome) && (!write || p.w)
    | none => false

/-- WAITING: the item at the head is a SUBMIT and waits for the active graph (R347, R349). -/
def sqWaiting (d : Dev) (x : Nat) : Bool :=
  let q := sqOf d x
  decide (sqUsed q ≠ 0) && !q.error && decide (fld (sqEntry q q.head.toNat) 0 3 = 0x101) && (ctxOf d x).graph.isSome

/-- Stops a queue at its head (R349). -/
def sqError (d : Dev) (x : Nat) : Dev := sqUpd d x fun q => { q with error := true }

/-- The head moves past an item. -/
def sqTake (d : Dev) (x n : Nat) : Dev := sqUpd d x fun q => { q with head := q.head + BitVec.ofNat 8 n }

/-- Whether a queue's next item may be taken: the context is IDLE or RUNNING, the package is awake, the item is whole (R349, R391). -/
def sqMay (d : Dev) (x : Nat) : Bool :=
  let q := sqOf d x
  let st := (ctxOf d x).state
  (decide (st = .idle) || decide (st = .running)) && decide (sleep d = 0) && !q.error && decide (sqUsed q ≠ 0) &&
    decide (itemLen q q.head.toNat ≤ sqUsed q)

/-- Starts a graph: the context is RUNNING, and its send lists start at entry 0 (R200, R261, R295). -/
def startGraph (d : Dev) (x : Nat) (va : Word) : Dev :=
  startSends (ctxUpd d x fun k => { k with
    state := .running, graphsRun := true,
    graph := some { va := va, taskBase := 0, taskCount := 0, id := 0, complBase := 2 ^ 52, chans := [], accepted := false, startTime := 0,
                    tasks := [], stopped := false, cancelled := false, fault := none } }) x

/-- Whether the context's next graph may start: none is active, the context does not end, no completion record waits, and no recovery
bars it (R200, R261, R342, R351). -/
def graphMay (d : Dev) (x : Nat) : Bool :=
  let k := ctxOf d x
  k.graph.isNone && !k.ending && (sqOf d x).cqWait.isEmpty && (decide (x = 0) || decide (og d 0x2010 1 = 0))

/-- SUBMIT at the head of a queue (R349). An item that breaks R348 stops the queue. -/
def takeSubmit (d : Dev) (x : Nat) : Dev :=
  let q := sqOf d x
  let e := sqEntry q q.head.toNat
  if !sqMay d x ∨ fld e 0 1 = 2 then d
  else if fld e 0 1 ≠ 1 ∨ !itemAgrees q ∨ fld e 1 1 ≠ 1 then sqError d x
  else if graphMay d x then startGraph (sqTake d x 1) x (BitVec.ofNat 64 (fld e 8 8))
  else d

def execSubmit (x : Nat) (s : State) : Host.Outcome State Fault Refusal := atCtx x s fun d => takeSubmit d x

/-- Fields of a WRITE item that R348 requires. -/
def writeOk (e : List Byte) (n : Nat) : Bool :=
  let len := fld e 16 4
  decide (fld e 8 8 % 4 = 0) && decide (1 ≤ len) && decide (len ≤ 464) &&
    decide (n = if len ≤ 44 then 1 else 1 + cdiv (len - 44) 60)

/-- WRITE at the head of a queue (R349). -/
def takeWrite (d : Dev) (x : Nat) : Dev :=
  let q := sqOf d x
  let e := sqEntry q q.head.toNat
  let n := itemLen q q.head.toNat
  if !sqMay d x ∨ fld e 0 1 = 1 then d
  else if fld e 0 1 ≠ 2 ∨ !itemAgrees q ∨ !writeOk e n ∨ !usable d x (fld e 8 8) (fld e 16 4) true then sqError d x
  else if hostWaits d x (fld e 8 8) (fld e 16 4) then d
  else unitWrite (sqTake d x n) x (fld e 8 8) ((itemData q n).take (fld e 16 4))

def execWrite (x : Nat) (s : State) : Host.Outcome State Fault Refusal := atCtx x s fun d => takeWrite d x

/-- The last complete item boundary from slot `pos`, with `left` slots before SQ_TAIL, and how many items lie before it (R350). -/
def boundary (q : Sq) : Nat → Nat → Nat → Nat → Nat × Nat
  | 0, pos, _, done => (pos, done)
  | fuel + 1, pos, left, done =>
    if left = 0 ∨ left < itemLen q pos then (pos, done)
    else boundary q fuel (pos + itemLen q pos) (left - itemLen q pos) (done + 1)

/-- A flush (R350). -/
def sqFlush (q : Sq) : Sq :=
  let (pos, done) := boundary q 256 q.head.toNat (sqUsed q) 0
  let b := BitVec.ofNat 8 pos
  { q with result := if b = q.tail then 1 else 2, discarded := BitVec.ofNat 8 done, head := b, tail := b, error := false }

/-- SQ_FLUSH: writing 1 flushes; other values are ignored (R347, R350). -/
def execSqFlush (x : Nat) (v : W32) (pre : List Posted) (s : State) : Host.Outcome State Fault Refusal :=
  onBar0 x s fun d => let d := posted d pre; if v = 1 then sqUpd d x sqFlush else d

/-! ### Reads of BAR0 (R346, R347, R353, R355, R356) -/

/-- SQ_STATUS (R347). -/
def sqStatus (d : Dev) (x : Nat) : Nat :=
  let q := sqOf d x
  q.result % 4 + 4 * b2n q.error + 8 * b2n (sqWaiting d x) + 2 ^ 8 * q.discarded.toNat

/-- The queue registers of a context as they read (R347); write-only registers and reserved space read zero. -/
def queueRegs (d : Dev) (x : Nat) : List Byte :=
  let q := sqOf d x
  toLE 4 q.tail.toNat ++ toLE 4 q.head.toNat ++ zeros 4 ++ toLE 4 (sqStatus d x) ++ toLE 8 q.cqBase.toNat ++ toLE 4 q.cqSize.toNat ++
    toLE 4 q.cqHead.toNat ++ toLE 4 q.cqTail.toNat ++ zeros 4 ++ toLE 8 q.fqBase.toNat ++ toLE 4 q.fqSize.toNat ++ toLE 4 q.fqHead.toNat ++
    toLE 4 q.fqTail.toNat ++ zeros 16 ++ toLE 4 q.irq.toNat

/-- MB_STATUS (R355). -/
def mbStatus (h : HostIf) : Nat := b2n h.busy + 2 * b2n h.done + 4 * b2n h.rejected + 2 ^ 16 * h.rspLen

/-- An entry of the MSI-X table, and the pending bits (R346). -/
def msixEntry (h : HostIf) (v : Nat) : List Byte :=
  toLE 8 (look 0 h.msixAddr v).toNat ++ toLE 4 (look 0 h.msixData v).toNat ++ toLE 4 (b2n !(look false h.msixOpen v))
def msixPba (h : HostIf) : List Byte :=
  toLE 24 ((List.range 130).foldl (fun n v => n + b2n (look false h.msixPend v) * 2 ^ v) 0)

/-- The registers of an aperture (R353). -/
def windowRegs (h : HostIf) (a : Nat) : List Byte :=
  toLE 4 (look 0 h.winCtrl a).toNat ++ zeros 4 ++ toLE 8 (look 0 h.winBase a).toNat

/-- One byte of BAR0 as the host reads it; reserved space reads zero (R346). -/
def bar0Byte (d : Dev) (off : Nat) : Byte :=
  let h := d.host
  if off < 0x2000000 then
    let r := off % 0x80000
    if r < 0x4000 then readByte (sqOf d (off / 0x80000)).slots r else (queueRegs d (off / 0x80000)).getD (r - 0x4000) 0
  else if off < 0x2004000 then readByte h.req (off - 0x2000000)
  else if off < 0x2008000 then readByte h.rsp (off - 0x2004000)
  else if off < 0x2010000 then (toLE 4 (mbStatus h)).getD (off - 0x2008004) 0 * (if off < 0x2008004 then 0 else 1)
  else if off < 0x2010820 then (msixEntry h ((off - 0x2010000) / 16)).getD (off % 16) 0
  else if off < 0x2011000 then 0
  else if off < 0x2012000 then (msixPba h).getD (off - 0x2011000) 0
  else if off < 0x2020000 then 0
  else if off < 0x2020080 then (windowRegs h ((off - 0x2020000) / 16)).getD (off % 16) 0
  else if off < 0x2030000 then (toLE 4 h.winRefused.toNat).getD (off - 0x2020080) 0
  else (toLE 4 h.wfIrq.toNat ++ toLE 4 h.wfSeen.toNat).getD (off - 0x2030000) 0

/-- What a host read of `n` bytes of BAR0 returns. It changes nothing; the table has no command for it. -/
def bar0Read (d : Dev) (off n : Nat) : List Byte := (List.range n).map fun i => bar0Byte d (off + i)

/-! ### Rings (R351, R259) -/

/-- A fault record as its 32 bytes (R259). -/
def faultBytes (r : FaultRec) : List Byte :=
  toLE 1 r.kind ++ toLE 1 r.ctx ++ toLE 1 (b2n r.write + 2 * b2n r.core + 4 * b2n r.protect) ++ toLE 1 0 ++ toLE 4 r.id ++ toLE 8 r.va ++
    toLE 2 r.unit ++ toLE 2 r.slot ++ toLE 4 0 ++ toLE 8 r.time.toNat

/-- Entries of an enabled ring; none while its base or size disables posting (R347). -/
def ringEntries (base : Word) (size : W32) : Option Nat :=
  if base ≠ 0 ∧ base.toNat % 4096 = 0 ∧ 6 ≤ size.toNat ∧ size.toNat ≤ 16 then some (2 ^ size.toNat) else none

/-- Whether a ring has room (R351). -/
def ringRoom (n : Nat) (head tail : W32) : Bool := decide ((tail.toNat + 1) % n ≠ head.toNat % n)

/-- Writes host memory. -/
def hostWrite (d : Dev) (a : Nat) (bs : List Byte) : Dev := { d with mem := writeMem d.mem (hostKey a) bs }

/-- Posts the oldest completion record (R351). -/
def postCompletion (d : Dev) (x : Nat) : Dev :=
  let q := sqOf d x
  match q.cqWait, ringEntries q.cqBase q.cqSize with
  | r :: rest, some n =>
    if d.host.busMaster && ringRoom n q.cqHead q.cqTail then
      let t := q.cqTail.toNat % n
      let d := hostWrite d (q.cqBase.toNat + 64 * t) r
      let d := sqUpd d x fun q => { q with cqWait := rest, cqTail := BitVec.ofNat 32 ((t + 1) % n) }
      if bit q.irq.toNat 0 then signalMsix d (2 * x) else d
    else d
  | _, _ => d

/-- Posts the oldest fault record (R351). -/
def postFault (d : Dev) (x : Nat) : Dev :=
  let q := sqOf d x
  match q.fqWait, ringEntries q.fqBase q.fqSize with
  | r :: rest, some n =>
    if d.host.busMaster && ringRoom n q.fqHead q.fqTail then
      let t := q.fqTail.toNat % n
      let d := hostWrite d (q.fqBase.toNat + 32 * t) (faultBytes r)
      let d := sqUpd d x fun q => { q with fqWait := rest, fqTail := BitVec.ofNat 32 ((t + 1) % n) }
      if bit q.irq.toNat 1 then signalMsix d (2 * x + 1) else d
    else d
  | _, _ => d

/-- RECORD_POST (R351). -/
def execRecordPost (x ring : Nat) (s : State) : Host.Outcome State Fault Refusal :=
  atCtx x s fun d => if ring = 0 then postCompletion d x else if ring = 1 then postFault d x else d

/-- CQ_HEAD or FQ_HEAD: the host frees room (R347, R351). -/
def execCqHead (x ring : Nat) (v : W32) (s : State) : Host.Outcome State Fault Refusal :=
  onBar0 x s fun d => sqUpd d x fun q => if ring = 0 then { q with cqHead := v } else if ring = 1 then { q with fqHead := v } else q

/-- CQ_BASE and CQ_SIZE, or FQ_BASE and FQ_SIZE (R345, R347). -/
def execCqBase (x ring : Nat) (base : Word) (size : W32) (pre : List Posted) (s : State) : Host.Outcome State Fault Refusal :=
  onBar0 x s fun d => sqUpd (posted d pre) x fun q =>
    if ring = 0 then { q with cqBase := base, cqSize := size } else if ring = 1 then { q with fqBase := base, fqSize := size } else q

/-! ### BAR2 (R353, R354, R391) -/

/-- Where a window access lands: key ranges, or none when it is refused (R354). -/
inductive WinPlace where
  | va (x a : Nat)
  | onChip (key : Nat) (x : Nat)
  deriving DecidableEq, Repr

/-- The target of `n` bytes at a BAR2 offset (R353, R354). -/
def winPlace (d : Dev) (off n : Nat) (write : Bool) : Option WinPlace :=
  let a := off / 2 ^ 33
  let r := off % 2 ^ 33
  let ctrl := (look 0 d.host.winCtrl a).toNat
  let x := bits ctrl 13 8
  if 8 ≤ a ∨ n = 0 ∨ 2 ^ 33 < r + n ∨ !bit ctrl 0 then none
  else if bit ctrl 1 then
    let cl := bits ctrl 18 14
    if 2 ^ 28 ≤ r ∨ !holds d x cl ∨ (clusterOf d cl).zeroing then none
    else (localKey d (8 * cl + r / 2 ^ 25) (r % 2 ^ 25) n).map fun k => .onChip k x
  else
    let va := (look 0 d.host.winBase a).toNat + r
    if usable d x va n write then some (.va x va) else none

/-- HOSTWIN_REFUSED counts up (R354). -/
def winRefuse (d : Dev) : Dev := hostSet d fun h => { h with winRefused := if h.winRefused = 0xFFFFFFFF then h.winRefused else h.winRefused + 1 }

/-- A window access at a package that is awake (R354); a read that meets poisoned bytes is answered with the EP bit set (R427). -/
def winServe (d : Dev) (acc : WinAccess) : Dev :=
  match acc with
  | .read off n =>
    (match winPlace d off n false with
    | none => emit (winRefuse d) (.completerAbort off)
    | some (.onChip k x) => emit (eccRead d x k n) (.bar2Data (memBytes d k n) ((memMarks d k n).any id))
    | some (.va x a) => (match keysVa d x a n false with
      | .ok l d => emit (rangesEcc d x l) (.bar2Data (rangesBytes d l) ((rangesMarks d l).any id))
      | _ => emit (winRefuse d) (.completerAbort off)))
  | .write off bs =>
    (match winPlace d off bs.length true with
    | none => winRefuse d
    | some (.onChip k x) => memWrite d x k bs
    | some (.va x a) => unitWrite d x a bs)

/-- Whether a window access waits: its requester is flagged at the hub's or the cluster's fabric port, or at a queue of HBM (R168, R353); or
it reaches a host page while Bus Master Enable is 0 (R345). Log entry 85, DEDUCED. -/
def winWaits (d : Dev) (acc : WinAccess) : Bool :=
  let (off, n, w) := match acc with | .read off n => (off, n, false) | .write off bs => (off, bs.length, true)
  match winPlace d off n w with
  | none => false
  | some (.onChip k _) => hubFlagged d 5 || fabricFlagged d (keyCluster k) 5
  | some (.va x a) => hubFlagged d 5 || hbmWaits d x 5 a n || hostWaits d x a n

/-- Serves the window accesses that waited, in their order, up to one that still waits. -/
def winResume (d : Dev) : Dev :=
  if sleep d ≠ 0 then d
  else go d.host.held (hostSet d fun h => { h with held := [] })
where
  go : List WinAccess → Dev → Dev
  | [], d => d
  | a :: r, d => if winWaits d a then hostSet d fun h => { h with held := a :: r } else go r (winServe d a)

/-- A window access: served at once in S0, behind those that wait, once awake from S1 or S2, refused in S3 and S4 (R391). Log entry 87,
DEDUCED. -/
def winAccess (d : Dev) (acc : WinAccess) : Dev :=
  if sleep d = 0 then winResume (hostSet d fun h => { h with held := h.held ++ [acc] })
  else
    let deep := decide (3 ≤ sleep d)
    let d := wakeBy d 2
    if deep then (match acc with
      | .read off _ => emit (winRefuse d) (.completerAbort off)
      | .write _ _ => winRefuse d)
    else hostSet d fun h => { h with held := h.held ++ [acc] }

/-- A command of the host on the endpoint, without a context. -/
def onHost (s : State) (go : Dev → Dev) : Host.Outcome State Fault Refusal :=
  .next { s with dev := if hostUp s.dev then go s.dev else s.dev }

def execBar2Read (off len : Nat) (pre : List Posted) (s : State) : Host.Outcome State Fault Refusal :=
  onHost s fun d => winAccess (posted d pre) (.read off len)
def execBar2Write (off : Nat) (data : List Byte) (pre : List Posted) (s : State) : Host.Outcome State Fault Refusal :=
  onHost s fun d => winAccess (posted d pre) (.write off data)

/-! ### Resets, Bus Master Enable and masks (R345, R356, R394) -/

/-- The queue registers at their reset values; the slots' contents and the records that wait stay (R345). -/
def sqReset (q : Sq) : Sq := { Sq.reset with slots := q.slots, cqWait := q.cqWait, fqWait := q.fqWait }

/-- The endpoint and every BAR0 register at their reset values; a mailbox request not yet answered is dropped (R345; log entry 44, DEDUCED). -/
def endpointReset (d : Dev) (up ans : Bool) : Dev :=
  { d with
    host := { HostIf.reset with sqs := d.host.sqs.map fun e => (e.1, sqReset e.2), linkUp := up, answers := ans },
    mgmt := { d.mgmt with queue := d.mgmt.queue.filter fun r => decide (r.src.door ≠ .mailbox) } }

/-- PERST_N is asserted (R345). -/
def execPerstN (s : State) : Host.Outcome State Fault Refusal := .next { s with dev := endpointReset s.dev false false }

/-- Whether start-up step 2 has completed (R394, R396). -/
def bootDone (d : Dev) : Bool :=
  let v := og d 0x603F 1
  decide (3 ≤ v % 16) || (decide (v % 16 = 2) && decide (v / 16 = 1))

/-- PERST_N is deasserted: the link trains, and configuration requests are answered once step 2 has completed (R394). -/
def execPerstNDeassert (s : State) : Host.Outcome State Fault Refusal :=
  .next { s with dev := hostSet s.dev fun h => { h with linkUp := true, answers := s.dev.power.vaux && bootDone s.dev } }

/-- A Function Level Reset acts as PERST_N (R345); the link stays up. -/
def execFunctionLevelReset (s : State) : Host.Outcome State Fault Refusal := onHost s fun d => endpointReset d true true

/-- Bus Master Enable is set: messages that waited leave (R345). -/
def execBusMasterEnable (s : State) : Host.Outcome State Fault Refusal :=
  onHost s fun d => winResume (flushMsix (hostSet d fun h => { h with busMaster := true }))

/-- A mask clears: a held message is sent (R356). Vector 130 stands for the function mask. -/
def execMsixMaskClear (vec : Nat) (pre : List Posted) (s : State) : Host.Outcome State Fault Refusal :=
  if vec < 131 then
    onHost s fun d => flushMsix (hostSet (posted d pre) fun h =>
      if vec < 130 then { h with msixOpen := put false h.msixOpen vec true } else { h with funcMask := false })
  else .next s

end Sys2Proof.Machine
end

