-- ==== Sys2Proof/Machine/CodeTables.lean ====
section
/-! DEFINITION. Code table slots: TALLOC, TLOAD, TLOAD_RETIRE, TFREE (R117 to R123, R432). -/

namespace Sys2Proof.Machine

/-- A slot that holds no table and is not reserved. -/
def slotFree (k : Ctx) (i : Nat) : Bool := decide (look none k.tables i = none) && !look false k.reserved i

/-- TALLOC reserves the lowest slot that is empty and not reserved; with none, status 0x0303 with bit 63 set (R121, R194). -/
def execTalloc (c : Nat) (f : Fields) (s : State) : Host.Outcome State Fault Refusal :=
  onCore c s fun d k i =>
    match (List.range 64).find? (slotFree (ctxOf d i.ctx)) with
    | some n =>
      retire (ctxUpd d i.ctx fun x => { x with reserved := put false x.reserved n true }) c (setX k f.rd (BitVec.ofNat 64 n))
    | none => retire d c (setX k f.rd 0x8000000000000303)

/-- TLOAD checks the slot and the record at xs2 and begins the load (R119, R121, R432). -/
def execTload (c : Nat) (f : Fields) (s : State) : Host.Outcome State Fault Refusal :=
  onCoreMem 8 c s fun d k i =>
    let slot := (getX k f.rs1).toNat
    if 64 ≤ slot then retire d c (setX k f.rd 0x0201)
    else withAcc c false (operandRead d i.ctx c (getX k f.rs2) 16 1) fun b d =>
      if tableValid b then coreUpd d c fun k => { k with status := .loading, tload := some (slot, parseTable b, f.rd) }
      else retireX d c f.rd 0x0201

/-- TLOAD_RETIRE: the slot holds the table and xd the status (R121). -/
def execTloadRetire (c : Nat) (s : State) : Host.Outcome State Fault Refusal :=
  if c < 256 then
    .next { s with dev := if (coreOf s.dev c).status = .loading then finishTload s.dev c else s.dev }
  else .next s

/-- TFREE empties a slot and clears its reservation (R121, R432). -/
def execTfree (c : Nat) (f : Fields) (s : State) : Host.Outcome State Fault Refusal :=
  onCore c s fun d k i =>
    let slot := (getX k f.rs1).toNat
    if 64 ≤ slot then badTable d c
    else retireDev (ctxUpd d i.ctx fun x =>
      { x with tables := put none x.tables slot none, reserved := put false x.reserved slot false }) c

end Sys2Proof.Machine
end

