-- ==== Sys2Proof/Machine/Adopted.lean ====
section
/-! DEFINITION. The one free value that is not a number: what GRAPH and CORE_STATE of a harvest area hold when this package did not write
them (R267: their layouts are not architectural; log entry 45, DESIGN CHOICE). -/

namespace Sys2Proof.Config

/-- The unit state in a harvest area written elsewhere, by number of free value. -/
opaque harvested : Nat → Machine.Snapshot

end Sys2Proof.Config
end

