-- ==== Sys2Proof/Machine/Contexts.lean ====
section
/-! DEFINITION. Contexts (R261 to R273): the commands of STATE, harvests, restores, adoption, scrubbing's end, reclaim. -/

namespace Sys2Proof.Machine

/-! ### Conditions (R261, R263, R266, R269) -/

/-- Whether another context holds a cluster of a mask, or one of them is being zeroed or stays unassigned (R160, R261, R263).
Log entry 83, DEDUCED. -/
def clustersBusy (d : Dev) (x : Nat) : Bool :=
  (clustersIn (maskOf d x)).any fun cl =>
    (match holder d cl with | some y => decide (y ≠ x) | none => false) || (clusterOf d cl).zeroing || (clusterOf d cl).unassigned

/-- The header of a harvest area. -/
def areaHeader (d : Dev) (x i : Nat) : List Byte :=
  if areaVa d x i = 0 then zeros 64
  else if inHbm d x (areaVa d x i) (areaBytes (maskOf d x)) false then (readArea d x (areaVa d x i) 64).1
  else zeros 64

/-- Whether an area holds a complete harvest for the context's mask (R267, R269). -/
def areaComplete (d : Dev) (x i : Nat) : Bool :=
  let h := areaHeader d x i
  decide (fld h 0x3C 4 = 1) && decide (fld h 8 4 = maskOf d x)

/-- Whether an area holds a harvest that ADOPT may take (R269). -/
def areaAdopts (d : Dev) (x i : Nat) : Bool := areaServes d x i && areaComplete d x i

/-- The newest complete area: the one with the higher SEQ (R268). -/
def newestArea (d : Dev) (x : Nat) : Option Nat :=
  match areaComplete d x 0, areaComplete d x 1 with
  | true, true => if fld (areaHeader d x 0) 0 4 < fld (areaHeader d x 1) 0 4 then some 1 else some 0
  | true, false => some 0
  | false, true => some 1
  | false, false => none

/-- The answer to a command code written to STATE (R261, R264, R266, R268, R269, R270, R342). Log entries 81 and 82, DEDUCED. -/
def stateCheck (d : Dev) (x code : Nat) : Nat :=
  let st := (ctxOf d x).state
  if code = 0 ∨ 7 < code then 0x0201
  else if x = 0 ∧ (code = 2 ∨ code = 3 ∨ code = 4 ∨ code = 5 ∨ code = 7) then 0x0302
  else match code with
    | 1 => if maskOf d x = 0 then 0x0201 else if st ≠ .free ∨ clustersBusy d x then 0x0302 else 0
    | 2 => if st = .idle ∨ st = .running ∨ st = .harvested then 0 else 0x0302
    | 3 => if st = .free then 0x0302 else 0
    | 4 => if st = .frozen then 0x0302 else if !areasOk d x then 0x0201 else if st = .idle ∨ st = .running then 0 else 0x0302
    | 5 =>
      if st = .frozen then 0x0302 else if !areasOk d x then 0x0201
      else if st = .idle ∨ st = .running ∨ st = .preempting then 0 else 0x0302
    | 6 =>
      if st ≠ .harvested then 0x0302
      else if newestArea d x = none then 0x0201
      else if clustersBusy d x ∨ og d 0x2010 1 = 1 then 0x0302 else 0
    | _ =>
      if st ≠ .idle then 0x0302
      else if (ctxOf d x).graphsRun ∨ !(areaAdopts d x 0 || areaAdopts d x 1) then 0x0201 else 0

/-! ### CREATE, END, KILL -/

/-- CREATE: the context is IDLE, its salt latched, its counts zero, its queue block reset, its energy retired (R253, R261, R280, R293,
R347, R409). -/
def createCtx (d : Dev) (x : Nat) : Dev :=
  let d := oset (obump d 64 0x6038 65 (og d 0x6038 (x + 1))) 0x6038 (x + 1) 0
  let d := cobjSet d x 13 0
  resetSq (ctxSet d x { Ctx.reset with state := .idle, salt := cobj d x 9 }) x

/-- END (R261). -/
def endCtx (d : Dev) (x : Nat) : Dev :=
  let k := ctxOf d x
  if k.state = .harvested then toFree d x
  else if k.graph.isNone then passScrub (beginScrub d x false) x
  else ctxUpd d x fun k => { k with ending := true }

/-- KILL (R261, R270): a context that holds no cluster has nothing to scrub. -/
def killCtx (d : Dev) (x : Nat) : Dev :=
  let k := ctxOf d x
  if k.state = .harvested then toFree d x
  else if k.state = .scrubbing then ctxUpd d x fun k => { k with ending := true, adopting := false }
  else passScrub (beginScrub d x true) x

/-! ### PREEMPT (R265, R101, R305) -/

/-- PREEMPT: dispatch stops, open groups issue, and the harvest waits for what runs. -/
def preemptCtx (d : Dev) (x : Nat) : Dev :=
  settle (issueOpen (ctxUpd d x fun k => { k with state := .preempting, hkind := 1 }) x)

/-- Discards the trains of a context but those that its own send lists have begun to send; answers whether there were any (R305). -/
def dropForwarded (d : Dev) (x : Nat) : Dev × Bool :=
  let gone (t : EgTrain) : Bool := egressMine x t && (t.forwarded || t.stream.isNone)
  let any := d.ports.any fun e => e.2.egress.any gone || (rxsOf e.2).any (rxMine x)
  let clean (p : Port) : Port := { p with
    egress := p.egress.filter fun t => !gone t,
    rxs := dropReceived x p.rxs }
  ({ d with ports := d.ports.map fun e => (e.1, clean e.2) }, any)

/-- Stops a context by force for a harvest of a kind: cores at instruction boundaries, engines at row boundaries, DMA after its piece,
trains discarded (R265, R272, R305). -/
def forceStop (d : Dev) (x kind : Nat) : Dev :=
  let d := ctxUpd d x fun k => { k with state := if kind = 3 then .reclaiming else .preempting, hkind := kind }
  let d := issueOpen (holdCores d (maskOf d x) true) x
  let (d, any) := dropForwarded d x
  let d := ctxUpd d x fun k => { k with notReady := any }
  let d := if any then windfall d 0x0022 sCtx x (hubPath d 31 31 20) else d
  settle d

/-- PREEMPT_FORCED; while a harvest is being written it changes nothing (R265). -/
def forceCtx (d : Dev) (x : Nat) : Dev :=
  let k := ctxOf d x
  if k.state = .preempting ∧ (k.harvesting ∨ k.hkind ≠ 1) then d else forceStop d x 2

/-! ### Writing the harvest (R266 to R268, R427) -/

/-- A tally record (R223). -/
def tallyBytes (y : Tally) : List Byte :=
  toLE 3 y.count.toNat ++ toLE 1 (b2n y.inuse + 2 * b2n y.barrier + 4 * b2n y.up) ++ toLE 2 y.p.toNat ++ toLE 1 y.gen.toNat ++ toLE 1 0 ++
    toLE 8 y.parent.toNat

/-- A tally from its record, with the waiters, child paths and owner that the record does not hold. -/
def parseTally (b : List Byte) (old : Tally) : Tally :=
  let st := fld b 3 1
  { old with inuse := bit st 0, barrier := bit st 1, up := bit st 2, count := BitVec.ofNat 24 (fld b 0 3), p := BitVec.ofNat 16 (fld b 4 2),
             gen := BitVec.ofNat 8 (fld b 6 1), parent := BitVec.ofNat 64 (fld b 8 8) }

/-- A slot as a table record (R118): an empty slot is all zero, a reserved one has KIND 0xFF (R123, R432; log entry 80, DESIGN CHOICE). -/
def tableBytes (t : Option CodeTable) (reserved : Bool) : List Byte :=
  match t with
  | none => if reserved then zeros 8 ++ toLE 1 0xFF ++ zeros 7 else zeros 16
  | some t =>
    let l (i : Nat) : Nat := t.len.getD i 0
    ((List.range 8).map fun i => BitVec.ofNat 8 (l (2 * i) + 16 * l (2 * i + 1))) ++ toLE 1 t.kind ++ zeros 7

/-- Copies `n` bytes between key ranges with their poison marks. -/
def copyKeys (d : Dev) (src dst n : Nat) : Dev :=
  let marks := (d.poison.filter fun e => decide (src / 8 ≤ e.1 ∧ 8 * e.1 < src + n)).map fun e => e.1 - src / 8 + dst / 8
  let d := { d with mem := copyMem d.mem d.mem src dst n, poison := clearMarks d.poison (dst / 8) (n / 8), upset := clearMarks d.upset (dst / 8) (n / 8) }
  marks.foldl (fun d g => { d with poison := put false d.poison g true }) d

/-- Copies a memory image to the pages of an area. -/
def saveImage (d : Dev) (x key va n : Nat) : Dev :=
  ((splitVa (n / 65536 + 2) va n).foldl (fun (a : Dev × Nat) e => match resolve a.1 x e.1 true with
    | .ok k d => (copyKeys d (key + a.2) k e.2, a.2 + e.2)
    | _ => (a.1, a.2 + e.2)) (d, 0)).1

/-- Copies a memory image from the pages of an area. -/
def loadImage (d : Dev) (x key va n : Nat) : Dev :=
  ((splitVa (n / 65536 + 2) va n).foldl (fun (a : Dev × Nat) e => match resolve a.1 x e.1 false with
    | .ok k d => (copyKeys (eccRead d x k e.2) k (key + a.2) e.2, a.2 + e.2)
    | _ => (a.1, a.2 + e.2)) (d, 0)).1

/-- The SRAM ranges that a harvest reads in a cluster. -/
def harvestRanges (d : Dev) (cl : Nat) : List (Nat × Nat) :=
  (coresAt cl).map (fun c => (spKey c 0, 0x600000)) ++ [(shKey cl 0, sharedSize d cl)]

/-- Writes the record of the i-th cluster of an area (R267). -/
def saveCluster (d : Dev) (x va cl : Nat) : Dev :=
  let d := (coresAt cl).foldl (fun d c => saveImage d x (spKey c 0) (va + c % 8 * 0x600000) 0x600000) d
  let d := saveImage d x (shKey cl 0) (va + 0x3000000) (sharedSize d cl)
  let d := writeArea d x (va + 0x4000000) ((List.range 1024).flatMap fun i => tallyBytes (tallyOf d (1024 * cl + i)))
  let d := writeArea d x (va + 0x4004000) ((List.range 64).flatMap fun i => regionBytes (regionOf d cl i))
  let (n, d) := (d.free, { d with free := d.free + 0x40000 })
  writeArea d x (va + 0x4008000) (openBytes n 0x40000)

/-- The clusters of a mask with their places among its set bits. -/
def numbered (mask : Nat) : List (Nat × Nat) := (List.range (clustersIn mask).length).zip (clustersIn mask)

/-- An engine as a harvest saves it: its decoded tiles and the bytes of a segment in progress are read again after a restore (R106, R128). -/
def savedEngine (e : Engine) : Engine := { e with active := none, shadow := none, seg := e.seg.map fun s => { s with read := none } }

/-- A core and a cluster as a harvest saves them and a restore puts them back: each register, engine, region and slot once, the caches empty. -/
def savedCore (k : Core) : Core :=
  { k with x := canon 0 k.x, v := canon 0 k.v, p := canon 0 k.p, dcache := [],
           engines := canon Engine.reset (k.engines.map fun e => (e.1, savedEngine e.2)) }
def savedCluster (k : Cluster) : Cluster := { k with regions := canon Region.reset k.regions, dma := canon none k.dma, cache := [], turns := canon 0 k.turns }

/-- What the area's bytes do not hold. -/
def snapshotOf (d : Dev) (x : Nat) : Snapshot :=
  let k := ctxOf d x
  let cls := clustersIn (maskOf d x)
  { seq := k.seq, began := k.began, mask := maskOf d x,
    cores := (d.cores.filter fun e => cls.contains (e.1 / 8)).map fun e => (e.1, savedCore e.2),
    clusters := d.clusters.filter fun e => cls.contains e.1,
    tallies := d.tallies.filter fun e => decide (e.1 < 32768) && cls.contains (e.1 / 1024), graph := k.graph }

/-! The bytes of GRAPH and SIGNAL_LOG that the model lays out (log entry 80, DESIGN CHOICE). -/

/-- A send list's cursor in 16 bytes. -/
def cursorBytes (l : SendList) : List Byte :=
  toLE 1 (b2n l.on) ++ toLE 1 (b2n l.go) ++ toLE 1 (b2n l.first.isSome) ++ toLE 1 0 ++ toLE 4 l.entry ++ toLE 4 l.unit ++ toLE 4 0
def firstBytes (l : SendList) : List Byte := ((l.first.getD []) ++ zeros 32).take 32
def parseCursor (b first : List Byte) : SendList :=
  ⟨bit (fld b 0 1) 0, fld b 4 4, bit (fld b 1 1) 0, false, fld b 8 4, if bit (fld b 2 1) 0 then some first else none⟩

/-- Keys of the expected SEQ values, by KIND and DIR, and by origin position (R293). -/
def expectedKeys : List Nat := [2, 3, 4, 5].flatMap fun a => (List.range 256).map fun o => a * 65536 + o

/-- The head of GRAPH: the image's number, both cursors, the landing table, train counts and expected SEQ values, and both lists' first
entries (R287, R293, R305). -/
def ringBytes (k : Ctx) (n : Nat) : List Byte :=
  toLE 8 n ++ cursorBytes k.east ++ cursorBytes k.west ++ toLE 8 (k.landing.length / 4096) ++ zeros 16 ++
    (k.landing ++ zeros 4096).take 4096 ++ ((List.range 16).flatMap fun i => toLE 4 (look 0 k.sent i)) ++
    (expectedKeys.flatMap fun i => toLE 4 (look 0 k.expected i)) ++ firstBytes k.east ++ firstBytes k.west
def ringSize : Nat := 0x20C0

/-- Puts the ring's part of GRAPH back. -/
def parseRing (b : List Byte) (k : Ctx) : Ctx :=
  { k with
    east := parseCursor ((b.drop 8).take 16) ((b.drop 8320).take 32)
    west := parseCursor ((b.drop 24).take 16) ((b.drop 8352).take 32)
    landing := if fld b 40 8 = 0 then [] else (b.drop 64).take 4096
    sent := (List.range 16).foldl (fun t i => put 0 t i (fld b (4160 + 4 * i) 4)) []
    expected := (expectedKeys.zip (List.range 1024)).foldl (fun t e => put 0 t e.1 (fld b (4224 + 4 * e.2) 4)) [] }

/-- An entry of the signal log in 16 bytes: the node, its child's path, the operation, whether an instruction's, n, the context (R241). -/
def logBytes (m : TallyMsg) : List Byte :=
  let (op, n) := match m.op with | .signal n => (0, n.toNat) | .decr n => (1, n.toNat) | .arrive => (2, 0) | .release => (3, 0)
  toLE 4 m.node.toNat ++ toLE 4 m.path.toNat ++ toLE 1 (op + 128 * b2n (fromInstruction m)) ++ toLE 3 n ++ toLE 1 m.ctx ++ zeros 3

/-- An operation of a signal log as it is applied: faults are charged as of a signal from another package (R242). -/
def logged (m : TallyMsg) : TallyMsg := { m with charge := if fromInstruction m then .logged else .package }
def parseLog (b : List Byte) : TallyMsg :=
  let op := fld b 8 1
  let n := BitVec.ofNat 24 (fld b 9 3)
  ⟨BitVec.ofNat 64 (fld b 0 4), match op % 4 with | 0 => .signal n | 1 => .decr n | 2 => .arrive | _ => .release,
    if bit op 7 then .logged else .package, fld b 12 1, BitVec.ofNat 64 (fld b 4 4)⟩

/-- Writes everything of an area but COMPLETE. -/
def saveArea (d : Dev) (x va : Nat) : Dev :=
  let k := ctxOf d x
  let d := writeArea d x (va + 0x1000) ((List.range 64).flatMap fun i => tableBytes (look none k.tables i) (look false k.reserved i))
  let d := writeArea d x (va + 0x2000) ((k.saved.take 256).flatMap faultBytes)
  let (n, d) := (d.free, { d with free := d.free + 0xC000 })
  let d := writeArea d x (va + 0x4000) (ringBytes k d.images.length ++ openBytes n (0xC000 - ringSize))
  let d := writeArea d x (va + 0x10000) (k.log.flatMap logBytes)
  let d := (numbered (maskOf d x)).foldl (fun d e => saveCluster d x (va + 0x20000 + e.1 * 0x4080000) e.2) d
  let paused := min k.saved.length 256
  writeArea d x (va + 0x18) (toLE 8 d.otime.count.toNat ++ toLE 4 k.log.length ++ toLE 4 paused ++
    toLE 4 (min (k.saved.length - paused) 0xFFFFFFFF))

/-- Uncorrectable errors that the harvest meets enter FAULT_LIST (R267, R270). -/
def harvestFaults (d : Dev) (x va : Nat) : Dev :=
  let rs := (clustersIn (maskOf d x)).flatMap (harvestRanges d)
  let gs := rs.flatMap fun r => marksIn d.poison r.1 r.2
  let evs := gs.map fun g => wfRecord 0x0001 sCtx false x (keyPath d x (8 * g)) d.otime.count
  let d := ctxUpd d x fun k => { k with events := (k.events ++ evs).take 64, eventCount := satAdd 32 k.eventCount evs.length }
  let k := ctxOf d x
  let d := writeArea d x (va + 0xC) (toLE 4 k.eventCount)
  let d := writeArea d x (va + 0x400) (k.events.flatMap fun e => toLE 16 e.toNat)
  rs.foldl (fun d r => eccRead d x r.1 r.2) d

/-! ### Faults raised again (R268) -/

/-- Puts a new FAULT_ID in place of an old one, or none, wherever an access waits for it in a context's clusters. -/
def relink (d : Dev) (x old : Nat) (new : Option Nat) : Dev :=
  let d := (coresIn (maskOf d x)).foldl (fun d c =>
    if (coreOf d c).fault = some old then
      coreUpd d c fun k => { k with fault := new, status := if new.isSome then k.status else .running }
    else d) d
  (clustersIn (maskOf d x)).foldl (fun d cl => clusterUpd d cl fun k =>
    { k with dma := k.dma.map fun e => (e.1, e.2.map fun s => if s.fault = some old then { s with fault := new } else s) }) d

/-- Raises a saved page fault again: KIND 0x02, with a new FAULT_ID. -/
def raiseAgain (d : Dev) (x : Nat) (r : FaultRec) : Dev :=
  let (id, d) := formFault d 2 x r.write r.core r.protect r.va r.unit r.slot
  relink d x r.id (some id)

/-- FAULT_IDs that accesses of a context wait for. -/
def pausedIds (d : Dev) (x : Nat) : List Nat :=
  ((coresIn (maskOf d x)).filterMap fun c => (coreOf d c).fault) ++
    (clustersIn (maskOf d x)).flatMap fun cl => (clusterOf d cl).dma.filterMap fun e => e.2.bind Dma.fault

/-- Every saved fault is raised again; the accesses beyond them resume without a record (R268). -/
def raiseAll (d : Dev) (x : Nat) (saved : List FaultRec) : Dev :=
  let rest := (pausedIds d x).filter fun i => !(saved.any fun r => decide (r.id = i))
  saved.foldl (fun d r => raiseAgain d x r) (rest.foldl (fun d i => relink d x i none) d)

/-- Applies a signal log (R242). -/
def applyLog (d : Dev) (log : List TallyMsg) : Dev :=
  log.foldl (fun d m => match nodeKey m.node with
    | some k => deliver d k (logged m)
    | none => d) d

/-- Steps 3 to 5 of R268: the signal log is applied, saved faults are raised again, instances resume and dispatch restarts; a freeze that
the log brings stops it there (R242, R337). -/
def resumeCtx (d : Dev) (x : Nat) (log : List TallyMsg) (saved : List FaultRec) : Dev :=
  let d := applyLog d log
  if (ctxOf d x).state = .frozen then d
  else
    let d := raiseAll d x saved
    let d := holdCores d (maskOf d x) false
    ctxUpd d x fun k =>
      { k with state := if k.graph.isSome then .running else .idle, harvesting := false, hkind := 0, saved := [], log := [] }

/-! ### Reclaim (R272, R273) -/

/-- Whether a context's HBM use exceeds its quota while RECLAIM is 1 (R272). -/
def reclaimDue (d : Dev) (x : Nat) : Bool :=
  decide (cobj d x 8 = 1) && (match quotaOf d x 0 with | some q => decide (q < mibHeld d x 0) | none => false)

/-- The pages of a context were looked at: the next pass counts accesses afresh (R273). -/
def clearAccessed (d : Dev) (x : Nat) : Dev :=
  { d with vm := { d.vm with pages := d.vm.pages.map fun e =>
    (e.1, if e.1 / 2 ^ 36 = x then e.2.map fun p => { p with accessed := false } else e.2) } }

/-- The end of a reclaim: the context is restored on its own clusters (R272). -/
def reclaimEnd (d : Dev) (x : Nat) : Dev :=
  let k := ctxOf d x
  let d := ctxUpd (clearAccessed d x) x fun k => { k with harvesting := false, stalled := false }
  let d := (coresIn (maskOf d x)).foldl (fun d c => coreUpd d c fun k => { k with engines := k.engines.map fun e => (e.1, savedEngine e.2) }) d
  resumeCtx d x k.log (k.saved.take 256)

/-- Whether a tier frame is free and within the tier quota (R273). -/
def tierRoom (d : Dev) (x : Nat) : Bool := quotaAllows d x 1 1 && decide (framesFree d 1 ≠ 0)

/-- Whether a context that holds clusters may come under reclaim: IDLE or RUNNING. -/
def mayReclaim (d : Dev) (x : Nat) : Bool := decide ((ctxOf d x).state = .idle) || decide ((ctxOf d x).state = .running)

/-- Whether a context is reclaimed where it stands: HARVESTED, or one that holds no cluster to pre-empt, as ctx 0 (R264, R272).
Log entry 147, DEDUCED. -/
def inPlace (d : Dev) (x : Nat) : Bool :=
  decide ((ctxOf d x).state = .harvested) || (mayReclaim d x && decide (maskOf d x = 0))

/-- Starts or ends the reclaim of a context, as its objects now ask; a stalled one waits (R272, R273). -/
def reclaimCheck (d : Dev) (x : Nat) : Dev :=
  let k := ctxOf d x
  if k.state = .reclaiming then
    if k.hkind ≠ 0 ∨ k.stalled ∨ reclaimDue d x then d else reclaimEnd d x
  else if inPlace d x then (if k.stalled && !reclaimDue d x then ctxUpd d x fun k => { k with stalled := false } else d)
  else if mayReclaim d x then
    if !reclaimDue d x then ctxUpd d x fun k => { k with stalled := false }
    else if areasOk d x then forceStop (ctxUpd d x fun k => { k with stalled := false }) x 3
    else ctxUpd d x fun k => { k with stalled := true }
  else d

/-- A larger quota or a cleared RECLAIM lets a stalled reclaim go on or end (R273); any other write of these objects leaves it waiting. -/
def reclaimWritten (d : Dev) (x sub old new : Nat) : Dev :=
  if (sub = 3 ∨ sub = 4) ∧ old < new ∨ sub = 8 ∧ new = 0 then reclaimCheck (ctxUpd d x fun k => { k with stalled := false }) x
  else reclaimCheck d x

/-- Looks at every context after its objects or pages changed. -/
def reclaimAll (d : Dev) : Dev := (d.ctxs.map (·.1)).foldl reclaimCheck d

/-- Whether a page lies in a harvest area: such pages are pinned (R266, R272). -/
def inArea (d : Dev) (x key : Nat) : Bool :=
  let va := key % 2 ^ 36 * 65536
  let hit (i : Nat) : Bool :=
    let a := areaVa d x i
    decide (a ≠ 0) && decide (va < a + areaBytes (maskOf d x)) && decide (a < va + 2097152)
  hit 0 || hit 1

/-- The next page to move: those not accessed since the last pass first, each in increasing address (R273). -/
def nextPage (d : Dev) (x : Nat) : Option (Nat × Page) :=
  let cand := d.vm.pages.filterMap fun e => match e.2 with
    | some p => if e.1 / 2 ^ 36 = x ∧ p.kind = 0 ∧ p.frame.isSome ∧ p.pin = false ∧ inArea d x e.1 = false then some (e.1, p) else none
    | none => none
  (cand.find? fun e => !e.2.accessed).or cand.head?

/-- Moves one page to a tier frame, or stalls (R272, R273). -/
def movePage (d : Dev) (x : Nat) : Dev :=
  match nextPage d x with
  | none => ctxUpd d x fun k => { k with stalled := true }
  | some (key, p) =>
    if !tierRoom d x then ctxUpd d x fun k => { k with stalled := true }
    else match takeFrame d 1, p.frame with
      | some (f, d), some h =>
        let d := copyKeys (eccRead d x (frameKey 0 h) 2097152) (frameKey 0 h) (frameKey 1 f) 2097152
        pageSet (setFrame d 0 h false) key (some { p with kind := 1, frame := some f })
      | _, _ => d

/-- RECLAIM_PAGE_MOVED (R272, R273); tier migration waits while its requester is flagged at a queue of HBM (R168, R170). -/
def reclaimStep (d : Dev) (x : Nat) : Dev :=
  let k := ctxOf d x
  if reclaimDue d x ∧ k.stalled = false ∧ hbmAnyFlagged d 5 = false ∧ (inPlace d x ∨ (k.state = .reclaiming ∧ k.hkind = 0)) then
    let d := movePage d x
    if reclaimDue d x then d
    else if inPlace d x then clearAccessed d x
    else if (ctxOf d x).state = .frozen then d
    else reclaimEnd d x
  else d

def execReclaimPageMoved (x : Nat) (s : State) : Host.Outcome State Fault Refusal := atCtx x s fun d => reclaimStep d x

/-! ### HARVEST_COMPLETE, SCRUB_COMPLETE -/

/-- The harvest area is whole: COMPLETE is written last (R267). -/
def markComplete (d : Dev) (x : Nat) : Dev :=
  let i := nextArea d x
  let d := writeArea d x (areaVa d x i + 0x3C) (toLE 4 1)
  ctxUpd { d with images := d.images ++ [snapshotOf d x] } x fun k => { k with newest := some i }

/-- The clusters are released and zeroed after a harvest (R158, R243, R268). -/
def releaseClusters (d : Dev) (x : Nat) : Dev :=
  ctxUpd (zeroClusters d x false) x fun k =>
    { k with hkind := 0, harvesting := false, graph := none, log := [], saved := [], tables := [], reserved := [] }

/-- Whether a flagged requester keeps a harvest or restore waiting: its fabric ports, or a queue of HBM (R168, R170). Log entry 85, DEDUCED. -/
def harvestWaits (d : Dev) (x : Nat) : Bool :=
  anyFlag d && (hubFlagged d 6 || hbmAnyFlagged d 4 || (clustersIn (maskOf d x)).any fun cl => fabricFlagged d cl 6)

/-- HARVEST_COMPLETE: the area is written; the clusters are released, or a reclaim goes on (R267, R268, R272). A freeze that an
uncorrectable error brings ends the harvest with COMPLETE at 0 (R270). -/
def harvestComplete (d : Dev) (x : Nat) : Dev :=
  let d := tryHarvest d x
  let k := ctxOf d x
  if k.harvesting && decide (k.hkind ≠ 0) && (decide (k.state = .preempting) || decide (k.state = .reclaiming)) && !harvestWaits d x then
    let va := areaVa d x (nextArea d x)
    let d := harvestFaults d x va
    if (ctxOf d x).state ≠ k.state then d
    else
      let d := markComplete (saveArea d x va) x
      if k.state = .preempting then releaseClusters d x
      else reclaimCheck (ctxUpd d x fun k => { k with hkind := 0 }) x
  else d

def execHarvestComplete (x : Nat) (s : State) : Host.Outcome State Fault Refusal := atCtx x s fun d => harvestComplete d x

/-- Ends the zeroing of a context's clusters; those whose read-back failed stay unassigned (R160). -/
def endZeroing (d : Dev) (x : Nat) (failed : List Nat) : Dev :=
  (clustersIn (maskOf d x)).foldl (fun d cl => clusterUpd d cl fun k =>
    if k.zeroing then { k with zeroing := false, unassigned := k.unassigned || failed.contains cl } else k) d

/-- SCRUB_COMPLETE (R159, R160, R261, R268, R269): corrected granules are counted; a failed word is a SCRUB_VERIFY windfall. Log
entry 84, DEDUCED. -/
def scrubComplete (d : Dev) (x : Nat) (failed : List Nat) (corrected : Nat) : Dev :=
  let k := ctxOf d x
  let cls := clustersIn (maskOf d x)
  if (k.state = .scrubbing ∨ (k.state = .preempting ∧ k.hkind = 0)) ∧ (cls.any fun cl => (clusterOf d cl).zeroing) then
    let cl0 := cls.headD 0
    let d := (List.range corrected).foldl (fun d _ => correctable d 0x0101 x (clusterPath d cl0 12)) d
    let bad := cls.filter fun cl => (clusterOf d cl).zeroing && failed.contains cl
    let d := bad.foldl (fun d cl => windfall d 0x0003 sNone x (clusterPath d cl 12)) (endZeroing d x failed)
    if k.state = .scrubbing ∧ k.adopting = false then toFree d x
    else ctxUpd d x fun k => { k with state := .harvested, adopting := false }
  else d

def execScrubComplete (x : Nat) (failed : List Nat) (corrected : Nat) (s : State) : Host.Outcome State Fault Refusal :=
  atCtx x s fun d => reclaimAll (scrubComplete d x failed corrected)

/-! ### RESTORE and ADOPT (R242, R268, R269) -/

/-- RESTORE begins: the context holds its clusters again. -/
def restoreCtx (d : Dev) (x : Nat) : Dev := ctxUpd d x fun k => { k with state := .restoring }

/-- The unit state of an area from its header and its image's number: what this package saved, wherever its bytes lie now, or, in an area
written elsewhere, a free value (log entry 45, DESIGN CHOICE). -/
def unitState (d : Dev) (h : List Byte) (n : Nat) : Snapshot × Dev :=
  let other : Snapshot × Dev := let (n, d) := draw d; (Config.harvested n, d)
  match d.images[n]? with
  | some s => if s.seq = fld h 0 4 ∧ s.began.toNat = fld h 0x10 8 ∧ s.mask = fld h 8 4 then (s, d) else other
  | none => other

/-- A page fault record from its 32 bytes. -/
def parseFault (b : List Byte) (x : Nat) : FaultRec :=
  let a := fld b 2 1
  ⟨fld b 0 1, x, bit a 0, bit a 1, bit a 2, fld b 4 4, fld b 8 8, fld b 16 2, fld b 18 2, BitVec.ofNat 64 (fld b 24 8)⟩

/-- Writes the record of one cluster back (R268). -/
def loadCluster (d : Dev) (x va cl : Nat) : Dev :=
  let d := (coresAt cl).foldl (fun d c => loadImage d x (spKey c 0) (va + c % 8 * 0x600000) 0x600000) d
  let d := loadImage d x (shKey cl 0) (va + 0x3000000) (sharedSize d cl)
  let (tb, d) := readArea d x (va + 0x4000000) 0x4000
  let (rb, d) := readArea d x (va + 0x4004000) 0x400
  let d := (List.range 1024).foldl (fun d i =>
    tallySet d (1024 * cl + i) (parseTally (tb.drop (16 * i)) { tallyOf d (1024 * cl + i) with owner := x })) d
  (List.range 64).foldl (fun d i => regionSet d cl i (parseRegion (rb.drop (16 * i)) (regionOf d cl i).old)) d

/-- A saved tally that is free has no owner. -/
def tidyTally (d : Dev) (k : Nat) : Dev := if (tallyOf d k).inuse then d else tallySet d k { tallyOf d k with owner := 0 }

/-- Puts the saved unit state back on the context's clusters. -/
def loadUnits (d : Dev) (x : Nat) (s : Snapshot) : Dev :=
  let cls := clustersIn (maskOf d x)
  let d := (s.cores.filter fun e => cls.contains (e.1 / 8)).foldl (fun d e => coreSet d e.1 (savedCore e.2)) d
  let d := (s.clusters.filter fun e => cls.contains e.1).foldl (fun d e =>
    clusterSet d e.1 { savedCluster e.2 with zeroing := false, unassigned := (clusterOf d e.1).unassigned }) d
  let d := (s.tallies.filter fun e => decide (e.1 < 32768) && cls.contains (e.1 / 1024)).foldl (fun d e => tallySet d e.1 e.2) d
  ctxUpd d x fun k => { k with graph := s.graph }

/-- Puts the slots of the 1 KiB of TABLES back, with their reservations (R123, R432). -/
def loadTables (tb : List Byte) (k : Ctx) : Ctx :=
  (List.range 64).foldl (fun k i =>
    let r := (tb.drop (16 * i)).take 16
    if r = zeros 16 then k
    else if fld r 8 1 = 0xFF then { k with reserved := put false k.reserved i true }
    else { k with tables := put none k.tables i (some (parseTable r)) }) { k with tables := [], reserved := [] }

/-- RESTORE_COMPLETE: memories and unit state are back, the log is applied, faults are raised again, instances resume (R268). -/
def restoreComplete (d : Dev) (x : Nat) : Dev :=
  if (ctxOf d x).state ≠ .restoring ∨ harvestWaits d x then d
  else match newestArea d x with
    | none => d
    | some i =>
      let va := areaVa d x i
      let (h, d) := readArea d x va 64
      let (gb, d) := readArea d x (va + 0x4000) ringSize
      let (s, d) := unitState d h (fld gb 0 8)
      let d := loadUnits d x s
      let d := (numbered (maskOf d x)).foldl (fun d e => loadCluster d x (va + 0x20000 + e.1 * 0x4080000) e.2) d
      let d := ((clustersIn (maskOf d x)).flatMap fun cl => (List.range 1024).map fun i => 1024 * cl + i).foldl tidyTally d
      let (tb, d) := readArea d x (va + 0x1000) 0x400
      let (pb, d) := readArea d x (va + 0x2000) (32 * min (fld h 0x24 4) 256)
      let (lb, d) := readArea d x (va + 0x10000) (16 * min (fld h 0x20 4) 4096)
      let d := ctxUpd d x fun k => { loadTables tb (parseRing gb k) with newest := some i, seq := fld h 0 4 }
      if (ctxOf d x).state = .frozen then d
      else
        resumeCtx d x ((List.range (min (fld h 0x20 4) 4096)).map fun j => parseLog (lb.drop (16 * j)))
          ((List.range (min (fld h 0x24 4) 256)).map fun j => parseFault (pb.drop (32 * j)) x)

def execRestoreComplete (x : Nat) (s : State) : Host.Outcome State Fault Refusal :=
  atCtx x s fun d => settle (reclaimAll (restoreComplete d x))

/-- ADOPT: the newest complete area with an equal mask becomes the context's, with its CTX field rewritten; the clusters are released
and zeroed (R269). -/
def adoptCtx (d : Dev) (x : Nat) : Dev :=
  match newestArea d x with
  | none => d
  | some i =>
    let h := areaHeader d x i
    let d := writeArea d x (areaVa d x i + 4) (toLE 1 x)
    let d := zeroClusters d x false
    ctxUpd d x fun k => { k with
      state := .scrubbing, adopting := true, newest := some i, seq := fld h 0 4, tables := [], reserved := [] }

/-- What an accepted command code does (R261). -/
def stateApply (d : Dev) (x code : Nat) : Dev :=
  match code with
  | 1 => createCtx d x
  | 2 => endCtx d x
  | 3 => killCtx d x
  | 4 => preemptCtx d x
  | 5 => forceCtx d x
  | 6 => restoreCtx d x
  | _ => adoptCtx d x

/-! ### Mapping (R247, R248, R429) -/

/-- Fields of a map request (R247). -/
structure MapReq where
  op : Nat
  ctx : Nat
  kind : Nat
  w : Bool
  demand : Bool
  pin : Bool
  count : Nat
  va : Nat
  host : Nat
  deriving DecidableEq, Repr

def parseMap (b : List Byte) : MapReq :=
  let fl := fld b 3 1
  ⟨fld b 0 1, fld b 1 1, fld b 2 1, bit fl 0, bit fl 1, bit fl 2, fld b 4 4, fld b 8 8, fld b 16 8⟩

/-- Page step of a kind. -/
def MapReq.step (m : MapReq) : Nat := if m.kind = 2 then 65536 else 2097152

/-- Bytes of the range. -/
def MapReq.bytes (m : MapReq) : Nat := m.count * m.step

/-- Pages listed that begin in a range. -/
def pagesIn (d : Dev) (x va n : Nat) : List (Nat × Page) :=
  d.vm.pages.filterMap fun e => match e.2 with
    | some p => if pageKey x va ≤ e.1 ∧ e.1 < pageKey x va + n / 65536 then some (e.1, p) else none
    | none => none

/-- Whether a range covers only part of an HBM or tier page (R429). -/
def coversPart (d : Dev) (x va n : Nat) : Bool :=
  let part (a : Nat) : Bool := match look none d.vm.pages (granKey x a) with
    | some p => decide (p.kind < 2) && (decide (a / 2097152 * 2097152 < va) || decide (va + n < a / 2097152 * 2097152 + 2097152))
    | none => false
  part va || part (va + n - 1)

/-- Whether a range meets a mapping that bars a MAP of this kind (R245, R248). -/
def meets (d : Dev) (m : MapReq) : Bool :=
  if m.kind = 2 then
    !(pagesIn d m.ctx m.va m.bytes).isEmpty ||
      ((List.range m.count).any fun i => match look none d.vm.pages (granKey m.ctx (m.va + i * 65536)) with
        | some p => decide (p.kind < 2)
        | none => false)
  else !(pagesIn d m.ctx m.va m.bytes).isEmpty

/-- The answer to a map request (R248). -/
def mapCheck (d : Dev) (b : List Byte) : Nat :=
  let m := parseMap b
  if !(decide (1 ≤ m.op) && decide (m.op ≤ 3) && decide (m.ctx < 64) && decide (m.kind ≤ 2) && decide (1 ≤ m.count) &&
      decide (m.count ≤ 1024) && decide (m.va % m.step = 0) && decide (m.va + m.bytes ≤ 2 ^ 52)) then 0x0201
  else if m.op = 1 ∧ m.kind = 2 ∧ (m.host % 65536 ≠ 0 ∨ 2 ^ 52 < m.host + m.bytes) then 0x0201
  else if m.demand ∧ m.kind = 2 then 0x0201
  else if (ctxOf d m.ctx).state = .free then 0x0201
  else if m.op ≠ 1 then (if coversPart d m.ctx m.va m.bytes then 0x0201 else 0)
  else if meets d m then 0x0201
  else if m.kind = 2 ∨ m.demand then 0
  else if !quotaAllows d m.ctx m.kind m.count then 0x0301
  else if framesFree d m.kind < m.count then 0x0303
  else 0

/-- Maps one page; frames are taken at once without DEMAND, in increasing address (R248, R252). -/
def mapPage (d : Dev) (m : MapReq) (i : Nat) : Dev :=
  let key := pageKey m.ctx (m.va + i * m.step)
  if m.kind = 2 then pageSet d key (some ⟨2, none, m.host + i * 65536, m.w, false, m.pin, false⟩)
  else if m.demand then pageSet d key (some ⟨m.kind, none, 0, m.w, true, m.pin, false⟩)
  else match takeFrame d m.kind with
    | some (f, d) => pageSet d key (some ⟨m.kind, some f, 0, m.w, false, m.pin, false⟩)
    | none => d

/-- Frees a page's frame and its mapping (R250). -/
def unmapPage (d : Dev) (e : Nat × Page) : Dev :=
  let d := match e.2.frame with
    | some f => setFrame d e.2.kind f false
    | none => d
  pageSet d e.1 none

/-- Whether every page of a range is mapped with W. -/
def writablePages (d : Dev) (x va n : Nat) : Bool :=
  (splitVa (n / 65536 + 2) va n).all fun e => match pageAt d x e.1 with
    | some p => p.w
    | none => false

/-- A load that runs ends with PAGE_ABORT once a page of its destination is unmapped or protected (R280). -/
def loadPages (d : Dev) (x : Nat) : Dev :=
  let l := (ctxOf d x).load
  if l.state = 1 ∧ !(writablePages d x l.hbmVa l.hbmBytes && writablePages d x l.tierVa (l.length - l.hbmBytes)) then
    ctxUpd d x fun k => { k with load := { l with state := 3, reason := 4 } }
  else d

/-- Carries out an accepted map request (R248, R280, R429). -/
def mapApply (d : Dev) (b : List Byte) : Dev :=
  let m := parseMap b
  let d := match m.op with
    | 1 => (List.range m.count).foldl (fun d i => mapPage d m i) d
    | 2 => loadPages ((pagesIn d m.ctx m.va m.bytes).foldl unmapPage d) m.ctx
    | _ => loadPages ((pagesIn d m.ctx m.va m.bytes).foldl (fun d e => pageSet d e.1 (some { e.2 with w := m.w })) d) m.ctx
  reclaimAll d

end Sys2Proof.Machine
end

