-- ==== Sys2Proof/Machine/Upkeep.lean ====
section
/-! DEFINITION. Upkeep of the chip: patrol scrubbing (R157), cut-offs and the flagged list (R168, R171), commits (R173), the division of
cluster shared memory (R152, R153), the hot channel (R254), the debug port (R160, R337, R393). -/

namespace Sys2Proof.Machine

/-! ### Patrol scrubber (R138, R157) -/

/-- Banks of a memory of R137: weight, activation, partial-sum, cluster shared. -/
def banksOf (kind : Nat) : Nat := [32, 48, 16, 256].getD kind 0

/-- Key of the word that a patrol reads, none when there is no such word (R138). -/
def patrolKey (kind u bank word : Nat) : Option Nat :=
  let off := 64 * (word * banksOf kind + bank)
  if banksOf kind ≤ bank ∨ 1024 ≤ word then none
  else if kind < 3 then (if u < 256 then some (spKey u ([0, 0x200000, 0x500000].getD kind 0 + off)) else none)
  else if u < 32 then some (shKey u off) else none

/-- PATROL_SCRUB: the word is read and corrected while its memory keeps its contents (R156, R157, R389). -/
def execPatrolScrub (kind u bank word : Nat) (s : State) : Host.Outcome State Fault Refusal :=
  match patrolKey kind u bank word with
  | some k => .next { s with dev := if s.dev.power.state < 3 then obump (eccRead s.dev 0 k 64) 64 0x7030 9 1 else s.dev }
  | none => .next s

/-! ### Cut-offs (R168, R171) -/

/-- The flagged-list value of R170. -/
def flagValue (site die inst req x : Nat) : Nat := 2 ^ 31 + 2 ^ 21 * x + flagKey site die inst req

/-- Records a flag in the lowest entry whose VALID is 0; with none, the requester is flagged with no entry (R171). -/
def addFlag (d : Dev) (v : Nat) : Dev :=
  match (List.range 32).find? fun i => !bit (og d 0x7021 (i + 1)) 31 with
  | some i => oset d 0x7021 (i + 1) v
  | none => { d with arb := { d.arb with unlisted := d.arb.unlisted ++ [v] } }

/-- PATH of an arbiter site (R332). -/
def sitePath (d : Dev) (site die inst : Nat) : Nat :=
  match site with
  | 0 => if inst % 16 < 8 then corePath d (64 * die + 8 * (inst / 16) + inst % 16) 0 1 else clusterPath d (8 * die + inst / 16) 12
  | 1 => diePath d die 16
  | 2 => pathOf d 5 (inst / 64 * 2 ^ 12 + inst % 64 * 64 + 28)
  | _ => hubPath d 31 31 20

/-- The oldest DMA descriptor of a core. -/
def oldestDma (d : Dev) (c : Nat) : Option (Nat × Dma) :=
  (clusterOf d (clOf c)).dma.foldl (fun best e => match e.2 with
    | some s =>
      if s.core ≠ c then best
      else (match best with
        | some b => if b.2.seq < s.seq then best else some (e.1, s)
        | none => some (e.1, s))
    | none => best) none

/-- Core `c`'s oldest descriptor, of context `x` where one is asked for, ends with ARB_CUTOFF. -/
def cutDma (d : Dev) (c : Nat) (x : Option Nat) (v : Nat) : Dev :=
  match oldestDma d c with
  | some (n, m) =>
    if x.all fun y => decide (y = m.ctx) then taskFail (dmaSet d (clOf c) n none) m.ctx m.task c 0x1041 (BitVec.ofNat 64 v) else d
  | none => d

/-- The train that a requester of a ring egress has begun to send loses the rest (R161, R168). -/
def cutTrain (d : Dev) (dir req x : Nat) : Dev :=
  let mine (t : EgTrain) : Bool := t.stream.isSome &&
    (if t.vc = 2 then decide (t.cls ≠ 3) && decide (req = if t.cls = 1 then 1 else 2) else decide (req = 6) && decide (t.ctx = x))
  portUpd d (ringPort d dir) fun p =>
    { p with egress := p.egress.filter fun t => !decide (some t.id = (p.egress.find? mine).map (·.id)) }

/-- The operation in progress that was cut off completes with ARB_CUTOFF: its task or graph faults (R168, R216). Log entry 150, DEDUCED. -/
def cutOperation (d : Dev) (site die inst req x v : Nat) : Dev :=
  let c := 64 * die + 8 * (inst / 16) + inst % 16
  let w := BitVec.ofNat 64 v
  if site = 3 then cutTrain d (min inst 1) req x
  else if site = 2 then
    (if req = 1 then (match (List.range 256).find? fun c => (oldestDma d c).any fun e => decide (e.2.ctx = x) with
      | some c => cutDma d c (some x) v
      | none => d)
    else d)
  else if die < 4 ∧ inst / 16 < 8 ∧ inst % 16 < 8 then
    if (site = 0 ∧ req = 6) ∨ (site = 1 ∧ req = 1) then cutDma d c none v
    else if site = 0 ∧ 1 ≤ req ∧ req ≤ 5 then
      (match if req = 5 then (clusterOf d (clOf c)).groups.head?.bind fun g => g.parts.head?
          else (coreOf d c).queue.head?.bind fun q => q.parts.head? with
      | some p => taskFail d p.ctx p.task p.core 0x1041 w
      | none => d)
    else if (site = 0 ∧ 7 ≤ req ∧ req ≤ 10) ∨ (site = 1 ∧ req = 3) then coreFault d c 0x1041 w
    else if site = 1 ∧ req = 2 then
      (if ((ctxOf d x).graph.any fun g => g.chans.any fun h => h.flight.isSome && decide (h.srcCl = clOf c)) then
        graphFault d x 0x1041 0xFFFFFFFF 0 w
      else d)
    else d
  else d

/-- Whether the requester of a flag value is flagged: at a ring egress each context's trains are a requester (R170, R304). -/
def valueFlagged (d : Dev) (site die inst req x : Nat) : Bool :=
  if site = 3 ∧ req = 6 then egressCtxFlagged d inst x else flagged d site die inst req

/-- HOLD_LIMIT_CUTOFF (R168). A requester that is flagged already holds no grant: nothing of it is cut off again. -/
def execHoldLimitCutoff (site die inst req x : Nat) (s : State) : Host.Outcome State Fault Refusal :=
  if site < 4 ∧ die < 5 ∧ inst < 512 ∧ req < 32 ∧ x < 64 then
    let v := flagValue site die inst req x
    let d := if valueFlagged s.dev site die inst req x then s.dev else cutOperation s.dev site die inst req x v
    let d := obump (addFlag d v) 32 0x7020 (site + 1) 1
    .next { s with dev := windfall d 0x0004 sCtx x (sitePath d site die inst) }
  else .next s

/-- Writing 1s to a flagged-list entry: clearing VALID clears the flag and lifts every flag with no entry; window accesses that waited go on
(R168, R171, R367). -/
def flaggedApply (d : Dev) (sub v : Nat) : Dev :=
  let old := og d 0x7021 sub
  let new := (BitVec.ofNat 32 old &&& ~~~(BitVec.ofNat 32 v)).toNat
  let d := oset d 0x7021 sub new
  if bit old 31 && !bit new 31 then winResume { d with arb := { d.arb with unlisted := [] } } else d

/-- COMMIT copies every shadow copy to its live value (R173). -/
def commitApply (d : Dev) : Dev :=
  let d := shadowKeys.foldl (fun d k => { d with live := put (objDefault k) d.live k (look (objDefault k) d.obj k) }) d
  oset d 0x70FE 0 ((og d 0x70FE 0 + 1) % 2 ^ 32)

/-- PENDING: a shadow copy differs from its live value (R170). -/
def commitPending (d : Dev) : Bool := shadowKeys.any fun k => decide (look (objDefault k) d.obj k ≠ look (objDefault k) d.live k)

/-! ### Division of cluster shared memory (R151 to R153) -/

/-- Whether any task runs on a cluster (R152). -/
def clusterBusy (d : Dev) (cl : Nat) : Bool :=
  ((coresAt cl).any fun c => (coreOf d c).inst.isSome) || !(partsIn d cl).isEmpty ||
    (clusterOf d cl).dma.any fun e => e.2.isSome

/-- The role of the i-th 2 MiB of a cluster's shared memory: 0 scratchpad, 1 cache, 2 staging (R151). -/
def roleOf (cache batch i : Nat) : Nat :=
  if batch = 1 ∧ i = 7 then 2
  else
    let top := if batch = 1 then 7 else 8
    if top - 2 * cache ≤ i ∧ i < top then 1 else 0

/-- The answer to a write of CLUSTER_CACHE (0x4010) or BATCHER_EN (0x4011) (R152, R153, R370). -/
def divisionCheck (d : Dev) (idx cl v : Nat) : Nat :=
  if clusterBusy d cl then 0x0105
  else if (idx = 0x4010 ∧ 2 < v) ∨ (idx = 0x4011 ∧ 1 < v) then 0x0201
  else if (idx = 0x4010 ∧ v = 2 ∧ og d 0x4011 (cl + 1) = 1) ∨ (idx = 0x4011 ∧ v = 1 ∧ og d 0x4010 (cl + 1) = 2) then 0x0304
  else 0

/-- An accepted change: dirty lines are written back, the cache is invalidated, bytes whose role changes are zeroed (R152). -/
def divisionApply (d : Dev) (idx cl v : Nat) : Dev :=
  let c0 := og d 0x4010 (cl + 1)
  let b0 := og d 0x4011 (cl + 1)
  let d := oset (emptyCache d cl true) idx (cl + 1) v
  let c1 := og d 0x4010 (cl + 1)
  let b1 := og d 0x4011 (cl + 1)
  (List.range 8).foldl (fun d i => if roleOf c0 b0 i ≠ roleOf c1 b1 i then zeroRange d (shKey cl (i * 0x200000)) 0x200000 else d) d

/-! ### Hot channel (R254) -/

/-- Requests to a pseudo-channel in a window, and those of one context. -/
def channelSum (l : List (Nat × Nat × Nat)) (ch : Nat) : Nat := l.foldl (fun s e => if e.1 = ch then s + e.2.2 else s) 0
def channelCtxSum (l : List (Nat × Nat × Nat)) (ch x : Nat) : Nat := l.foldl (fun s e => if e.1 = ch ∧ e.2.1 = x then s + e.2.2 else s) 0

/-- One of those with the largest count; among several, a free choice (log entry 46, DESIGN CHOICE). -/
def mostOf (n free : Nat) (f : Nat → Nat) : Nat :=
  let top := (List.range n).foldl (fun m i => max m (f i)) 0
  let cands := (List.range n).filter fun i => decide (f i = top)
  cands.getD (free % cands.length) 0

/-- The end of a 1 ms window (R254). A share of all requests does not fit 1/256 units in a byte: its value is free (log entry 46, DESIGN CHOICE). -/
def hotWindow (d : Dev) (l : List (Nat × Nat × Nat)) : Dev :=
  let (n, d) := draw d
  let total := l.foldl (fun s e => s + e.2.2) 0
  let ch := mostOf 512 (Config.number n) (channelSum l)
  let (n, d) := draw d
  let x := mostOf 64 (Config.number n) (channelCtxSum l ch)
  let (n, d) := draw d
  let share := if total = 0 then 0 else channelSum l ch * 256 / total
  let share := if share < 256 then share else Config.number n % 256
  let d := oset (oset (oset d 0x4020 1 ch) 0x4020 2 share) 0x4020 3 x
  if og d 0x4020 5 ≤ share then obump d 32 0x4020 4 1 else d

def execHotChannelWindow (counts : List (Nat × Nat × Nat)) (s : State) : Host.Outcome State Fault Refusal :=
  if counts.all fun e => decide (e.1 < 512) && decide (e.2.1 < 64) then .next { s with dev := hotWindow s.dev counts }
  else .next s

/-! ### Debug port -/

/-- A read of on-chip memory by the debug port: refused while the cluster is being zeroed (R160). -/
def debugRead (d : Dev) (c a n : Nat) : Dev :=
  match localKey d c a n with
  | none => emit d .debugRefused
  | some k =>
    if (clusterOf d (clOf c)).zeroing then emit d .debugRefused
    else emit (eccRead d ((holder d (clOf c)).getD 0) k n) (.debugData (memBytes d k n))

/-- DEBUG_PORT_ACCESS: held state is read (R337), a beat of the die fabric passes (R166), a firmware slot is rewritten (R393). -/
def execDebugPortAccess (a : DebugAccess) (s : State) : Host.Outcome State Fault Refusal :=
  match a with
  | .readOnChip c addr n => if c < 256 then .next { s with dev := debugRead s.dev c addr n } else .next s
  | .fabricBeat die => if die < 4 then .next { s with dev := obump s.dev 64 0x7031 9 1 } else .next s
  | .firmware slot good =>
    .next { s with dev := { s.dev with mgmt :=
      if slot = 0 then { s.dev.mgmt with slot0 := good } else if slot = 1 then { s.dev.mgmt with slot1 := good } else s.dev.mgmt } }

end Sys2Proof.Machine
end

