-- ==== Sys2Proof/Machine/Loads.lean ====
section
/-! DEFINITION. Weight images: checking a load request, loading its pieces, serving peers (R274 to R280). -/

namespace Sys2Proof.Machine

/-- Fields of a load request (R277). -/
structure LoadReq where
  op : Nat
  ctx : Nat
  path : Nat
  map : Bool
  tables : Bool
  replace : Bool
  shard : Nat
  peer : Nat
  src : Nat
  hbmVa : Nat
  hbmBytes : Nat
  tierVa : Nat
  srcCtx : Nat
  deriving DecidableEq, Repr

def parseLoad (b : List Byte) : LoadReq :=
  let fl := fld b 3 1
  ⟨fld b 0 1, fld b 1 1, fld b 2 1, bit fl 0, bit fl 1, bit fl 2, fld b 4 2, fld b 6 2, fld b 8 8, fld b 16 8, fld b 24 8, fld b 32 8,
    fld b 40 1⟩

/-! ### The image at its source -/

/-- `n` bytes of the image from offset `off`, as the load engine reads them before it answers: from ctx 0's memory on path 1, from the
bytes that the source outside the package answers on the others (log entry 47, DEDUCED). Poisoned bytes name nothing that the checks accept. -/
def imageAt (d : Dev) (q : LoadReq) (image : List Byte) (off n : Nat) : List Byte :=
  if q.path = 1 then (match keysVa d 0 (q.src + off) n false with
    | .ok l d => if (rangesMarks d l).any id then zeros n else rangesBytes d l
    | _ => zeros n)
  else ((image.drop off).take n) ++ zeros (n - ((image.drop off).take n).length)

/-- The ring position and length of a context: resident ones have position 0 and length 1 (R288). Log entry 94, DEDUCED. -/
def ringBound (d : Dev) (x : Nat) : Bool := decide (og d 0x3020 (x + 1) = 1) && decide (og d 0x3000 2 ≠ 1)
def ringLen (d : Dev) (x : Nat) : Nat := if ringBound d x then og d 0x3000 2 else 1
def ringPos (d : Dev) (x : Nat) : Nat := if ringBound d x then og d 0x3000 3 else 0

/-- The ring position whose shard a request asks for (R277). -/
def shardOf (d : Dev) (q : LoadReq) : Nat := if q.shard = 0xFFFF then ringPos d q.ctx else q.shard

/-- Where a shard starts in its image, and its length: its entry of the shard table (R274). -/
def shardPlace (d : Dev) (q : LoadReq) (image : List Byte) : Nat × Nat :=
  let t := imageAt d q image (fld (imageAt d q image 0 64) 16 8 + 16 * shardOf d q) 16
  (fld t 0 8, fld t 8 8)

/-- The image header serves a request (R274, R278). -/
def headerServes (d : Dev) (q : LoadReq) (image : List Byte) : Bool :=
  let h := imageAt d q image 0 64
  let len := fld h 6 2
  decide (fld h 0 4 = 0x4F4E4D4C) && decide (fld h 4 2 = 1) && decide (1 ≤ len) && decide (len ≤ 256) &&
    decide (fld h 16 8 % 64 = 0) && decide (shardOf d q < len) && (decide (q.shard ≠ 0xFFFF) || decide (len = ringLen d q.ctx))

/-- Table entries of a shard: slot and record (R275). -/
def shardTables (d : Dev) (q : LoadReq) (image : List Byte) : List (Nat × List Byte) :=
  let p := (shardPlace d q image).1
  (List.range (fld (imageAt d q image p 64) 4 1)).map fun i =>
    let e := imageAt d q image (p + 0x40 + 32 * i) 32
    (fld e 0 1, e.drop 16)

/-- Directory entries of a shard (R275). -/
def shardDir (d : Dev) (q : LoadReq) (image : List Byte) : List (List Byte) :=
  let p := (shardPlace d q image).1
  let h := imageAt d q image p 64
  (List.range (fld h 8 4)).map fun i => imageAt d q image (p + 0x40 + 32 * fld h 4 1 + 32 * i) 32

/-- A directory entry that R275 allows; LENGTH is what R111 gives. -/
def dirOk (len : Nat) (e : List Byte) : Bool :=
  let fmt := fld e 6 1
  let rate := fld e 7 1
  let want := if fmt = 3 then fld e 8 4 else cdiv (fld e 8 4) 16 * segBytes fmt rate
  decide (fmt ≤ 3) && decide (rate ≤ 4) && (decide (fmt ≠ 3) || decide (rate = 0)) && decide (fld e 16 8 % 64 = 0) &&
    decide (fld e 24 8 = want) && decide (fld e 16 8 + fld e 24 8 ≤ len)

/-- Tensors lie in increasing OFFSET and do not overlap (R275). -/
def dirOrdered : Nat → List (List Byte) → Bool
  | _, [] => true
  | lo, e :: r => decide (lo ≤ fld e 16 8) && dirOrdered (fld e 16 8 + fld e 24 8) r

/-- The shard serves a request (R275, R276, R278). -/
def shardServes (d : Dev) (q : LoadReq) (image : List Byte) : Bool :=
  let (p, len) := shardPlace d q image
  let h := imageAt d q image p 64
  let ts := shardTables d q image
  let start := 0x40 + 32 * ts.length + 32 * fld h 8 4
  decide (p % 64 = 0) && decide (fld h 0 2 = shardOf d q) && decide (fld h 2 2 = fld (imageAt d q image 0 64) 6 2) &&
    decide (ts.length ≤ 64) && decide (1 ≤ fld h 8 4) && decide (fld h 8 4 ≤ 65536) && decide (start ≤ len) &&
    ts.all (fun t => decide (t.1 < 64) && tableValid t.2) && decide ((ts.map (·.1)).Nodup) &&
    (shardDir d q image).all (dirOk len) && dirOrdered start (shardDir d q image) &&
    decide (q.hbmBytes ≤ len) && (decide (q.hbmBytes % 2097152 = 0) || decide (q.hbmBytes = len)) &&
    !((shardDir d q image).any fun e => decide (fld e 16 8 < q.hbmBytes) && decide (q.hbmBytes < fld e 16 8 + fld e 24 8)) &&
    decide (q.hbmVa + q.hbmBytes ≤ 2 ^ 52) &&
    (decide (q.hbmBytes = len) || (decide (q.tierVa % 2097152 = 0) && decide (q.tierVa + (len - q.hbmBytes) ≤ 2 ^ 52)))

/-! ### Destination -/

/-- The mapping of pages that MAP makes: HBM for the first HBM_BYTES, tier for the rest (R276, R277). Log entry 90, DEDUCED. -/
def loadMaps (q : LoadReq) (len : Nat) : List MapReq :=
  [⟨1, q.ctx, 0, true, false, false, cdiv q.hbmBytes 2097152, q.hbmVa, 0⟩,
    ⟨1, q.ctx, 1, true, false, false, cdiv (len - q.hbmBytes) 2097152, q.tierVa, 0⟩]

/-- Loads that run in the package. -/
def loadsRunning (d : Dev) : Nat := (d.ctxs.filter fun e => decide (e.2.load.state = 1)).length

/-- The package that a punnet port must reach (R314). -/
def punnetMate (d : Dev) (code : Nat) : Nat := ownIndex d / 8 * 8 + (ownIndex d % 8 + (code - 3) + 1) % 8

/-- The partners of a PEER mask, from the lowest: bit k is the partner of punnet port k (R279, R309, R314). -/
def stripePeers (d : Dev) (mask : Nat) : List Nat := ((List.range 7).filter fun i => bit mask i).map fun i => punnetMate d (3 + i)

/-- The package that serves a byte of the image: PEER, or the partner whose turn its 2 MiB piece of the shard is (R277, R279). -/
def sourceOf (d : Dev) (path peer off : Nat) : Nat :=
  let ps := stripePeers d peer
  if path = 3 then ps.getD (off / 2097152 % ps.length) 0 else peer

/-- The port toward a package, none where no route serves (R322, R323). -/
def portToward (d : Dev) (dest : Nat) : Option Nat := routePort d (zeros 4 ++ toLE 2 dest ++ zeros 58)

/-- Whether the sources of paths 2 and 3 can be reached, and answered (R278; log entry 47, DEDUCED). -/
def sourceServes (d : Dev) (q : LoadReq) (image : List Byte) : Bool :=
  if q.path = 2 then !image.isEmpty && (portToward d q.peer).isSome
  else if q.path = 3 then !image.isEmpty && (stripePeers d q.peer).all fun p => (portToward d p).isSome
  else true

/-- The conditions of R278 that need no byte of the image. -/
def loadFieldsOk (d : Dev) (q : LoadReq) : Bool :=
  decide (1 ≤ q.ctx) && decide (q.ctx < 64) && decide (q.path ≤ 3) && (decide (q.shard < 256) || decide (q.shard = 0xFFFF)) &&
    decide (q.hbmVa % 2097152 = 0) && decide (q.hbmVa + q.hbmBytes ≤ 2 ^ 52) &&
    (decide (q.path ≠ 3) || (decide (q.peer % 128 ≠ 0) && decide (q.peer < 128))) &&
    (decide (q.path < 2) || decide (q.srcCtx < 64)) && (decide (q.path = 0) || decide (q.src < 2 ^ 52)) &&
    (match (ctxOf d q.ctx).state with | .free => false | .scrubbing => false | .frozen => false | _ => true)

/-- Whether a load's answer waits: its source is host memory, and Bus Master Enable is 0 (R345). Log entry 149, DEDUCED. -/
def loadWaits (d : Dev) (b : List Byte) : Bool :=
  let q := parseLoad b
  decide (b.length = 64) && decide (q.op = 1) && ((decide (q.path = 0) && !d.host.busMaster) || (decide (q.path = 1) && hostWaits d 0 q.src 64))

/-- The answer to a load request (R277, R278). Where the source of path 2 or 3 does not answer, no condition on the image can be
read, and its first HBM_BYTES stand for its length (log entry 47, DEDUCED). -/
def loadCheck (d : Dev) (b image : List Byte) : Nat :=
  let q := parseLoad b
  let served := sourceServes d q image
  let len := if served then (shardPlace d q image).2 else q.hbmBytes
  if q.op = 2 then (if 1 ≤ q.ctx ∧ q.ctx < 64 then 0 else 0x0201)
  else if q.op ≠ 1 ∨ !loadFieldsOk d q then 0x0201
  else if served && !(headerServes d q image && shardServes d q image) then 0x0201
  else if (if q.map then (loadMaps q len).any fun m => decide (m.count ≠ 0) && meets d m
      else !(writablePages d q.ctx q.hbmVa q.hbmBytes && writablePages d q.ctx q.tierVa (len - q.hbmBytes))) then 0x0201
  else if q.map && (loadMaps q len).any (fun m => decide (m.count ≠ 0) && !quotaAllows d q.ctx m.kind m.count) then 0x0301
  else if q.map && (loadMaps q len).any (fun m => decide (framesFree d m.kind < m.count)) then 0x0303
  else if (ctxOf d q.ctx).load.state = 1 ∨ (q.tables ∧ !holdsAny d q.ctx) then 0x0302
  else if served && q.tables && !q.replace && (shardTables d q image).any (fun t => !slotFree (ctxOf d q.ctx) t.1) then 0x0304
  else if 8 ≤ loadsRunning d then 0x0303
  else if !served then 0x0401
  else 0

/-- Loads a table entry into its slot (R121, R432). -/
def loadTable (d : Dev) (x : Nat) (t : Nat × List Byte) : Dev :=
  ctxUpd d x fun k => { k with tables := put none k.tables t.1 (some (parseTable t.2)), reserved := put false k.reserved t.1 false }

/-- CANCEL: a load that runs ends with ABORTED (R277, R280). Log entry 91, DEDUCED. -/
def loadCancel (d : Dev) (x : Nat) : Dev := ctxUpd d x fun k => { k with load := abortLoad k.load }

/-- The load of a context ends. -/
def loadEnd (d : Dev) (x state reason : Nat) : Dev := ctxUpd d x fun k => { k with load := { k.load with state := state, reason := reason, via := none } }

/-- Sends the read of a load's next bytes toward its source through a port. -/
def sendRead (d : Dev) (x p : Nat) (again : Bool) : Dev :=
  let l := (ctxOf d x).load
  let (n, d) := (d.free, { d with free := d.free + 55 })
  let t := requestTrain d readKind x (sourceOf d l.path l.peer l.bytes) n
  ctxUpd (queueTrain d p (newTrain 2 x 2 (setByte t 8 1))) x fun k => { k with load := { k.load with via := some p, reissued := again } }

/-- The read of a load's next bytes goes to its source on paths 2 and 3; where no route serves, the load ends with LINK_LOST (R279, R280). -/
def issueRead (d : Dev) (x : Nat) (again : Bool) : Dev :=
  let l := (ctxOf d x).load
  if l.state ≠ 1 ∨ l.path < 2 ∨ l.length ≤ l.bytes then d
  else match portToward d (sourceOf d l.path l.peer l.bytes) with
    | some p => sendRead d x p again
    | none => loadEnd d x 3 3

/-- A load's outstanding read is lost: it is issued once more over another route, else the load ends with LINK_LOST (R280, R306). -/
def loseRead (d : Dev) (x : Nat) : Dev :=
  let l := (ctxOf d x).load
  if l.state ≠ 1 ∨ l.path < 2 then d else if l.reissued then loadEnd d x 3 3 else issueRead d x true

/-- Every read outstanding on a port that goes down is lost. -/
def loseReads (d : Dev) (code : Nat) : Dev :=
  (d.ctxs.filterMap fun e => if e.2.load.state = 1 ∧ e.2.load.via = some code then some e.1 else none).foldl loseRead d

/-- What the reads of a request's header, tables and directory do to ctx 0's memory: frames of pages on demand, and their check bits (R249,
R278). -/
def imageReads (d : Dev) (b image : List Byte) : Dev :=
  let q := parseLoad b
  let p := (shardPlace d q image).1
  let h := imageAt d q image p 64
  let rs := [(0, 64), (fld (imageAt d q image 0 64) 16 8 + 16 * shardOf d q, 16), (p, 64), (p + 0x40, 32 * (fld h 4 1 + min (fld h 8 4) 65536))]
  if q.op = 1 ∧ q.path = 1 ∧ loadFieldsOk d q then
    rs.foldl (fun d r => match keysVa d 0 (q.src + r.1) r.2 false with
      | .ok l d => rangesEcc d 0 l
      | _ => d) d
  else d

/-- Carries out an accepted load request (R277, R278, R280). -/
def loadApply (d : Dev) (b image : List Byte) : Dev :=
  let q := parseLoad b
  if q.op = 2 then loadCancel d q.ctx
  else
    let (p, len) := shardPlace d q image
    let ts := if q.tables then shardTables d q image else []
    let seen (d : Dev) : Dev := imageReads d b image
    let d := seen (if q.map then (loadMaps q len).foldl (fun d m => (List.range m.count).foldl (fun d i => mapPage d m i) d) d else d)
    let d := ts.foldl (fun d t => loadTable d q.ctx t) d
    let l : LoadSt := { LoadSt.reset with
      state := 1, path := q.path, hbmVa := q.hbmVa, hbmBytes := q.hbmBytes, tierVa := q.tierVa, length := len, src := q.src + p,
      peer := q.peer, srcCtx := q.srcCtx }
    reclaimAll (issueRead (ctxUpd d q.ctx fun k => { k with load := l }) q.ctx false)

/-! ### Pieces (R280) -/

/-- The device virtual address of a byte of the shard (R276). -/
def LoadSt.at (l : LoadSt) (off : Nat) : Nat := if off < l.hbmBytes then l.hbmVa + off else l.tierVa + (off - l.hbmBytes)

/-- Bytes that the next piece can hold: up to the next 2 MiB boundary and the end of its part (R276, R279).
Log entry 92, DESIGN CHOICE. -/
def LoadSt.room (l : LoadSt) : Nat :=
  let part := if l.bytes < l.hbmBytes then l.hbmBytes else l.length
  min (part - l.bytes) (2097152 - l.bytes % 2097152)

/-- Writes one piece; a page that no longer takes it ends the load, and the last piece completes it (R280). Log entry 93, DEDUCED. -/
def landPiece (d : Dev) (x : Nat) (bs : List Byte) : Dev :=
  let l := (ctxOf d x).load
  if bs = [] then d
  else match writeVa d x (l.at l.bytes) bs with
    | .ok _ d =>
      let n := l.bytes + bs.length
      ctxUpd d x fun k => { k with load :=
        { k.load with bytes := n, state := if k.load.state = 1 ∧ l.length ≤ n then 2 else k.load.state, via := none } }
    | .bad d => loadEnd d x 3 4
    | .wait d => d
    | .page _ _ d => loadEnd d x 3 4
    | .resource _ d => loadEnd d x 3 4

/-- The next piece of a load from ctx 0's memory; poison and unmapped pages are a SOURCE_ERROR. -/
def tierPiece (d : Dev) (x : Nat) : Dev :=
  let l := (ctxOf d x).load
  match keysVa d 0 (l.src + l.bytes) l.room false with
  | .ok r d =>
    let marks := rangesMarks d r
    let bs := rangesBytes d r
    let d := rangesEcc d 0 r
    if marks.any id then loadEnd d x 3 5 else if (ctxOf d x).load.state = 1 then landPiece d x bs else d
  | _ => loadEnd d x 3 5

/-- Whether a piece waits for Bus Master Enable: its source or its place is host memory (R345). Log entry 149, DEDUCED. -/
def pieceWaits (d : Dev) (x : Nat) : Bool :=
  let l := (ctxOf d x).load
  (decide (l.path = 0) && !d.host.busMaster) || (decide (l.path = 1) && hostWaits d 0 (l.src + l.bytes) l.room) ||
    hostWaits d x (l.at l.bytes) l.room

/-- LOAD_PIECE (R280): the next piece, or how its read failed: on paths 2 and 3 `err` 3 is a link that dropped, whose read is issued again
once; any other is a SOURCE_ERROR. The next read follows. -/
def loadPiece (d : Dev) (x : Nat) (data : List Byte) (err : Nat) : Dev :=
  let l := (ctxOf d x).load
  if l.state ≠ 1 ∨ pieceWaits d x then d
  else if l.path = 1 then tierPiece d x
  else if err = 0 then
    let d := landPiece d x (data.take l.room)
    if (ctxOf d x).load.bytes = l.bytes then d else issueRead d x false
  else if err = 3 ∧ 2 ≤ l.path then loseRead d x
  else loadEnd d x 3 5

def execLoadPiece (x : Nat) (data : List Byte) (err : Nat) (s : State) : Host.Outcome State Fault Refusal :=
  atCtx x s fun d => loadPiece d x data err

/-- PEER_READ (R279): bytes of an exported context's mapped pages. -/
def peerRead (d : Dev) (x va n : Nat) : Dev :=
  if og d 0x4073 (x + 1) = 1 ∧ usable d x va n false then
    match readVa d x va n with
    | .ok b d => emit d (.peerData b)
    | _ => d
  else d

def execPeerRead (x va len : Nat) (s : State) : Host.Outcome State Fault Refusal := atCtx x s fun d => peerRead d x va len

end Sys2Proof.Machine
end

