-- ==== Sys2Proof/Machine/Trains.lean ====
section
/-! DEFINITION. Flits and link control (R289 to R291, R301, R304, R315 to R317, R323): sealing and sending flits, egress, credits, routed
trains, and a link going down (R306). -/

namespace Sys2Proof.Machine

/-- A command at a link. -/
def atLink (l : Nat) (s : State) (go : Dev → Dev) : Host.Outcome State Fault Refusal :=
  if l < 19 then .next { s with dev := go s.dev } else .next s

/-- PATH of a link, and of the ring engine (R332). Log entry 75, DESIGN CHOICE. -/
def linkPath (d : Dev) (l : Nat) : Nat := hubPath d (physOptic d (min l 15)) 31 20
def ringPath (d : Dev) : Nat := hubPath d 31 31 20

/-- A link in ACTIVE, and one that carries link control flits (R314). -/
def linkActive (d : Dev) (l : Nat) : Bool := decide ((linkOf d l).state = .active)
def linkAlive (d : Dev) (l : Nat) : Bool := linkActive d l || decide ((linkOf d l).state = .miswired)

/-! ### Flits (R289) -/

/-- A whole flit: FHDR, payload, CRC. -/
def mkFlit (vc stream lseq : Nat) (first last : Bool) (payload : List Byte) : List Byte :=
  let b := toLE 4 (vc + 4 * b2n first + 8 * b2n last + 16 * (stream % 256) + 2 ^ 12 * (lseq % 4096) + 2 ^ 24 * (payload.length - 1)) ++
    payload ++ zeros (248 - payload.length)
  b ++ toLE 4 (crc32 b)

/-- Fields of FHDR. -/
def flitVc (f : List Byte) : Nat := fld f 0 4 % 4
def flitFirst (f : List Byte) : Bool := bit (fld f 0 4) 2
def flitLast (f : List Byte) : Bool := bit (fld f 0 4) 3
def flitStream (f : List Byte) : Nat := bits (fld f 0 4) 11 4
def flitSeq (f : List Byte) : Nat := bits (fld f 0 4) 23 12
def flitPayload (f : List Byte) : List Byte := (f.drop 4).take (min 248 (bits (fld f 0 4) 31 24 + 1))

/-- Whether a flit's CRC is good. -/
def flitGood (f : List Byte) : Bool := decide (f.length = 256) && decide (crc32 (f.take 252) = fld f 252 4)

/-- Sends a flit of a train on a link: numbered, and kept for replay (R315). -/
def sendFlit (d : Dev) (l stream : Nat) (t : EgTrain) (first last : Bool) (payload : List Byte) : Dev :=
  let k := linkOf d l
  let f := mkFlit t.vc stream k.tx.toNat first last payload
  emit (linkSet d l { k with tx := k.tx + 1, replay := k.replay ++ [⟨f, t.id, t.head⟩] }) (.flit l f)

/-- Whether a link can take a flit of VC 0 to 2: it is ACTIVE, since a MISWIRED one carries only link control flits (R314), and its replay
buffer is not full (R315). Log entry 104, DEDUCED. -/
def linkTakes (d : Dev) (l : Nat) : Bool := linkActive d l && decide ((linkOf d l).replay.length < 2048)

/-! ### Credits (R301) -/

/-- The link that keeps a port's credits: its lowest. -/
def leadLink (code : Nat) : Nat := (portLinks code).headD 0

/-- The key of a context's credits. -/
def creditKey (ctx vc : Nat) : Nat := 2 * ctx + vc

/-- Credits that a train's next flit can use. -/
def credit (d : Dev) (code : Nat) (t : EgTrain) : Nat :=
  let k := linkOf d (leadLink code)
  if t.vc = 2 then k.credit2 else look 0 k.credits (creditKey t.ctx t.vc)

/-- Spends one credit. -/
def spend (d : Dev) (code : Nat) (t : EgTrain) : Dev :=
  linkUpd d (leadLink code) fun k =>
    if t.vc = 2 then { k with credit2 := k.credit2 - 1 }
    else { k with credits := upd 0 k.credits (creditKey t.ctx t.vc) fun n => n - 1 }

/-- Whether the package's ring carries trains (R286). -/
def ringUp (d : Dev) : Bool := decide (og d 0x3000 5 = 2)

/-- The other ring port. -/
def acrossPort (d : Dev) (code : Nat) : Nat := if code = ringPort d 0 then ringPort d 1 else ringPort d 0

/-- Flits that a train holds in its port's ingress buffer: those not yet landed or added, or not yet sent on; `out` is the egress that
carries it on (R296, R301). -/
def rxFlits (out : List EgTrain) (r : RxTrain) : Nat :=
  let waiting := match out.find? fun t => decide (some t.id = r.goesOn) with | some t => t.chunks.length | none => 0
  if r.discard then 0 else max (cdiv r.payload.length 248) waiting

/-- Flits that a context holds in a VC's ingress buffer of a port: those of trains that are still landed or added, and those of forwarded
trains that have landed whole and wait at the other port's egress. -/
def heldFlits (d : Dev) (code ctx vc : Nat) : Nat :=
  let p := portOf d code
  let out := (portOf d (acrossPort d code)).egress
  let mine (r : RxTrain) : Bool := rxMine ctx r && decide ((fld r.header 0 1 = 1) = (vc = 0))
  let ins := ((rxsOf p).filter mine).foldl (fun n r => n + rxFlits out r) 0
  out.foldl (fun n t => if t.forwarded && decide (t.ctx = ctx) && decide (t.vc = vc) && !(carried p).contains t.id then n + t.chunks.length else n) ins

/-- Flits of a VC that a port holds or has granted, over all contexts. -/
def portFlits (d : Dev) (code vc : Nat) : Nat :=
  (List.range 64).foldl (fun n x => n + heldFlits d code x vc + look 0 (linkOf d (leadLink code)).grants (creditKey x vc)) 0

/-- What a port may grant to a context on VC 0 or 1 now, by its CREDIT_SHARE and by the `room` left in the buffer. -/
def grantFor (d : Dev) (code ctx vc room : Nat) : Nat :=
  if ringUp d && ringBound d ctx then
    min (og d 0x3027 (ctx + 1) - heldFlits d code ctx vc - look 0 (linkOf d (leadLink code)).grants (creditKey ctx vc)) room
  else 0

/-- The grants of the next link control flit of a ring port: up to 30 entries of context, VC and flits, within the 4,096 flits of each VC's
buffer, lower contexts first (R291, R301; log entry 48, DESIGN CHOICE). -/
def grantList (d : Dev) (code : Nat) : List (Nat × Nat × Nat) :=
  ((List.range 128).foldl (fun (a : List (Nat × Nat × Nat) × Nat × Nat) i =>
    let vc := i % 2
    let room := if vc = 0 then a.2.1 else a.2.2
    let g := grantFor d code (i / 2) vc room
    if g = 0 ∨ 30 ≤ a.1.length then a
    else (a.1 ++ [(i / 2, vc, g)], if vc = 0 then (room - g, a.2.2) else (a.2.1, room - g)))
    ([], 4096 - portFlits d code 0, 4096 - portFlits d code 1)).1

/-- The key of VC 2 grants outstanding. -/
def vc2Key : Nat := 1000

/-! ### Link control flits (R291, R316) -/

/-- The ACK fields of a link: ACK_LSEQ and ACK_VALID. -/
def ackOf (k : Link) : Nat := if k.rxAny then k.rx.toNat + 4096 else 0

/-- Whether a NAK is due: a bad flit's replay is awaited, and no NAK for this ACK went out in the last 1 µs. -/
def nakDue (d : Dev) (k : Link) : Bool :=
  k.dropping && (decide (k.sentNak ≠ some (ackOf k)) || decide (k.nakTime.toNat + 800 ≤ d.otime.count.toNat))

/-- Sends one link control flit; the lowest link of a port carries its grants (log entry 48, DESIGN CHOICE). -/
def sendControl (d : Dev) (l : Nat) : Dev :=
  let code := portOfLink l
  let lead := decide (l = leadLink code)
  let k := linkOf d l
  let nak := nakDue d k
  let grants := if lead && portUp d code && (decide (code = ringPort d 0) || decide (code = ringPort d 1)) then grantList d code else []
  let g2 := if lead && portUp d code then 256 - look 0 k.grants vc2Key else 0
  let payload := toLE 4 (ackOf k + 8192 * b2n nak) ++ toLE 4 g2 ++
    grants.flatMap (fun e => toLE 1 e.1 ++ toLE 1 e.2.1 ++ toLE 2 0 ++ toLE 4 e.2.2) ++ zeros (240 - 8 * grants.length)
  let b := toLE 4 3 ++ payload
  let table := grants.foldl (fun t e => upd 0 t (creditKey e.1 e.2.1) fun n => n + e.2.2) (upd 0 k.grants vc2Key fun n => n + g2)
  let d := linkSet d l { k with
    grants := table, sentNak := if nak then some (ackOf k) else k.sentNak, nakTime := if nak then d.otime.count else k.nakTime }
  emit d (.flit l (b ++ toLE 4 (crc32 b)))

/-! ### Egress (R161 to R163, R172, R304) -/

/-- The fixed index of a train's requester: time and barrier, other VC 2 traffic, then for each context its own list and its forwarded
trains on VC 0 and VC 1 (log entry 49, DESIGN CHOICE). -/
def requesterOf (t : EgTrain) : Nat :=
  if t.vc = 2 then (if t.cls = 1 then 0 else 1)
  else 2 + 3 * t.ctx + (if !t.forwarded then 0 else 1 + t.vc)

/-- The class of a train's requester. -/
def classOf (d : Dev) (t : EgTrain) : Nat :=
  if t.vc = 2 then live d 0x7004 (if t.cls = 1 then 1 else 2) else live d (0x5000 + 16 * t.ctx) 6

/-- Whether a requester is flagged at a ring egress: time and barrier traffic, ctx 0 traffic, or the trains of a context; freeze traffic has
no class and no index (R166, R168, R170). Log entry 85, DEDUCED. -/
def egressFlagged (d : Dev) (code : Nat) (t : EgTrain) : Bool :=
  let dir := if code = ringPort d 0 then 0 else 1
  (decide (code = ringPort d 0) || decide (code = ringPort d 1)) &&
    (if t.vc = 2 then decide (t.cls ≠ 3) && flagged d 3 4 dir (if t.cls = 1 then 1 else 2) else egressCtxFlagged d dir t.ctx)

/-- A STREAM number that no train in flight of a port uses (R290). -/
def freeStream (p : Port) : Option Nat := (List.range 256).find? fun n => p.egress.all fun t => decide (t.stream ≠ some n)

/-- The header of a time train as it leaves a link (R325). -/
def timeHeader (d : Dev) (l : Nat) : List Byte :=
  let t := d.otime
  let k := linkOf d l
  toLE 1 0x10 ++ zeros 3 ++ toLE 2 t.hops ++ toLE 1 t.state ++ zeros 1 ++
    toLE 8 (if t.state = 4 then Config.serial.toNat else t.master.toNat) ++ toLE 8 t.count.toNat ++ toLE 8 k.lastTx.toNat ++
    toLE 8 k.lastRx.toNat ++ zeros 24

/-- The link that takes a train's next flit: a time train's own, else the member of the port whose turn it is (R284, R325). -/
def nextLink (d : Dev) (code : Nat) (t : EgTrain) : Nat :=
  t.link.getD ((portLinks code).getD ((portOf d code).dealt % (portLinks code).length) 0)

/-- Whether that link takes it: a time train goes as its link can, any other train while the whole port is up (R284, R314). -/
def linkReady (d : Dev) (code : Nat) (t : EgTrain) : Bool := linkTakes d (nextLink d code t) && (t.link.isSome || portUp d code)

/-- A train's next flit as it leaves: the first one takes OTIME at its origin, or the stamps of a time train (R292, R325). -/
def stamped (d : Dev) (t : EgTrain) (c : List Byte) : List Byte :=
  match t.link with
  | some l => timeHeader d l
  | none => if t.own.isSome && t.stream.isNone then c.take 32 ++ toLE 8 d.otime.count.toNat ++ c.drop 40 else c

/-- Whether a train competes: it has a flit, credit, and its stream or a free one; ring trains only while the
ring is UP and the package awake (R391). -/
def competes (d : Dev) (code : Nat) (t : EgTrain) : Bool :=
  !t.chunks.isEmpty && decide (0 < credit d code t) && (t.stream.isSome || (freeStream (portOf d code)).isSome) &&
    (decide (t.vc = 2) || (ringUp d && decide (sleep d = 0))) && !egressFlagged d code t

/-- The first of a list of trains that a round-robin pointer meets (R163). -/
def firstAt (ptr : Nat) (l : List EgTrain) : Option EgTrain :=
  let key (t : EgTrain) : Nat := if ptr ≤ requesterOf t then requesterOf t else requesterOf t + 256
  l.foldl (fun best t => match best with
    | some b => if key t < key b then some t else some b
    | none => some t) none

/-- The winner of an arbitration at a port: freeze traffic, else the highest class by its pointer. -/
def winner (d : Dev) (code : Nat) : Option EgTrain :=
  let p := portOf d code
  let cands := p.egress.filter fun t => competes d code t && linkReady d code t
  match cands.find? fun t => decide (t.vc = 2) && decide (t.cls = 3) with
  | some t => some t
  | none =>
    let top := cands.foldl (fun m t => max m (classOf d t)) 0
    firstAt (look 0 p.pointers top) (cands.filter fun t => decide (classOf d t = top))

/-- The first flit of a send list's train leaves: it counts among its origin's trains (R292, R293). -/
def trainBegun (d : Dev) (t : EgTrain) : Dev :=
  match t.own with
  | some o => ctxUpd d t.ctx fun k =>
      let key := 2 * fld t.head 0 1 + o.dir
      { k with sent := put 0 k.sent key ((look 0 k.sent key + 1) % 2 ^ 32) }
  | none => d

/-- A send list goes to its next entry, or has run every one (R295). -/
def nextEntry (d : Dev) (x dir : Nat) : Dev :=
  let go (l : SendList) : SendList := { l with
    entry := l.entry + 1, go := false, unit := 0, on := l.on && decide (l.entry + 1 < og d (if dir = 0 then 0x3023 else 0x3025) (x + 1)) }
  ctxUpd d x fun k => if dir = 0 then { k with east := go k.east } else { k with west := go k.west }

/-- A train of a send list is over: the list stands behind it (R295). -/
def sentOn (d : Dev) (x : Nat) (o : Sent) : Dev :=
  if o.ends then nextEntry d x o.dir
  else ctxUpd d x fun k =>
    if o.dir = 0 then { k with east := { k.east with unit := k.east.unit + o.units } }
    else { k with west := { k.west with unit := k.west.unit + o.units } }

/-- Takes a train off a port's egress. -/
def dequeue (d : Dev) (code id : Nat) : Dev := portUpd d code fun p => { p with egress := p.egress.filter fun u => decide (u.id ≠ id) }

/-- A train has left: ring counts, its list's cursor and DONE_TALLY, and the tally message that it carried (R285, R295). -/
def trainLeft (d : Dev) (code : Nat) (t : EgTrain) : Dev :=
  let d := dequeue d code t.id
  let dir := if code = ringPort d 0 then 0 else 1
  let d := if t.vc < 2 then obump d 64 0x3001 (1 + dir + (if t.forwarded then 2 else 0)) 1 else d
  let d := match t.msg with | some m => emit d (.tally m) | none => d
  match t.own with
  | some o => hwSignal (sentOn d t.ctx o) 64 o.done 1 .package t.ctx
  | none => d

/-- Sends the next flit of train `id` of a port (R284, R292). -/
def sendOne (d : Dev) (code id : Nat) : Option Dev :=
  let p := portOf d code
  match p.egress.find? fun t => decide (t.id = id) with
  | none => none
  | some t => match t.chunks with
    | [] => none
    | c :: r =>
      if !competes d code t ∨ !linkReady d code t then none
      else
        let stream := t.stream.getD ((freeStream p).getD 0)
        let last := r.isEmpty && !t.more
        let t' := { t with stream := some stream, chunks := r }
        let d' := portSet d code { p with
          dealt := if t.link.isSome then p.dealt else (p.dealt + 1) % (portLinks code).length
          egress := p.egress.map fun u => if u.id = id then t' else u }
        let d' := sendFlit (spend d' code t) (nextLink d code t) stream t t.stream.isNone last (stamped d t c)
        let d' := if t.stream.isNone then trainBegun d' t else d'
        some (if last then trainLeft d' code t' else d')

/-- Up to `n` flits of one train. -/
def sendMany (code id : Nat) : Nat → Dev → Dev
  | 0, d => d
  | n + 1, d => match sendOne d code id with
    | none => d
    | some d => sendMany code id n d

/-- One grant of a port's egress: up to 16 flits of the winner, whose class moves its pointer on (R161, R163); those of the ring count it
(R174). -/
def egressGrant (d : Dev) (code : Nat) : Dev :=
  match winner d code with
  | none => d
  | some t =>
    let cls := classOf d t
    let d' := sendMany code t.id 16 d
    if d' = d ∨ (t.vc = 2 ∧ t.cls = 3) then d'
    else
      let d' := if code = ringPort d 0 ∨ code = ringPort d 1 then obump d' 64 0x7033 (cls + 1) 1 else d'
      portUpd d' code fun p => { p with pointers := put 0 p.pointers cls ((requesterOf t + 1) % 256) }

/-! ### Routed trains (R321 to R323) -/

/-- Whether a train is routed traffic. -/
def isRouted (t : List Byte) : Bool := decide (0x11 ≤ fld t 0 1) && decide (fld t 0 1 ≤ 0x1F)

/-- The part of VC 2 that a routed train belongs to: barrier traffic, freeze traffic, or other (R166, R170, R304). -/
def routeClass (t : List Byte) : Nat := if fld t 0 1 = 0x12 then 3 else if fld t 0 1 = tallyKind then 1 else 2

/-- Sends a routed train on its way; one that cannot leave is a ROUTE_LOST of its context (R323). -/
def routeTrain (d : Dev) (t : List Byte) : Dev :=
  match routePort d t with
  | some p => queueTrain d p (newTrain 2 (fld t 1 1) (routeClass t) (setByte t 8 (fld t 8 1 + 1)))
  | none => windfall d 0x0014 sCtx (fld t 1 1) (ringPath d)

/-! ### A link goes down (R306, R317) -/

/-- The VC 2 trains that flits of a port waiting for replay, or trains in part sent, belong to: number and header of each (R306). -/
def lostTrains (d : Dev) (code : Nat) : List (Nat × List Byte) :=
  let held := (portLinks code).flatMap fun l => ((linkOf d l).replay.filter fun f => decide (flitVc f.flit = 2)).map fun f => (f.train, f.head)
  let begun := ((portOf d code).egress.filter fun t => decide (t.vc = 2) && t.stream.isSome).map fun t => (t.id, t.head)
  (held ++ begun).foldl (fun l e => if l.any fun u => decide (u.1 = e.1) then l else l ++ [e]) []

/-- A lost train of VC 2: a freeze message goes on over another route; a tally operation is a WRITE_LOST of its context, and so is a
write, a release or a signal of a KIND that the manual does not give; a read is not (R306, R338; log entry 50, DESIGN CHOICE). -/
def loseTrain (d : Dev) (t : List Byte) : Dev :=
  if fld t 0 1 = 0x12 then routeTrain d (setByte t 8 (fld t 8 1 - 1))
  else if !isRouted t then d
  else if fld t 0 1 = readKind then d
  else if fld t 0 1 = tallyKind then windfall d 0x0007 sCtx (fld t 1 1) (ringPath d)
  else
    let (n, d) := draw d
    if Config.number n % 2 = 1 then windfall d 0x0007 sCtx (fld t 1 1) (ringPath d) else d

/-- What is left of the trains being received at a port that goes down: those that came whole go on landing (R306). -/
def wholeOnly (l : Table (List RxTrain)) : Table (List RxTrain) :=
  (l.map fun e => (e.1, e.2.filter RxTrain.finished)).filter fun e => !e.2.isEmpty

/-- Every train in part sent or received on a port is lost, with the list of a train of its own behind it; whole ones stay (R306). -/
def cutPort (d : Dev) (code : Nat) : Dev :=
  let p := portOf d code
  let cut := (rxsOf p).filter fun r => !r.finished
  let fed := cut.filterMap RxTrain.goesOn
  let begun := p.egress.filter fun t => t.stream.isSome
  let d := portSet d code { p with
    egress := p.egress.filter fun t => t.stream.isNone, rxs := wholeOnly p.rxs, dealt := 0, merged := 0, early := [] }
  let d := portUpd d (acrossPort d code) fun p => { p with egress := p.egress.filter fun t => !(t.more && fed.contains t.id) }
  begun.foldl (fun d t => match t.own with | some o => sentOn d t.ctx o | none => d) d

/-- Clears what a link holds for its partner: credits, grants, replay. -/
def clearLink (k : Link) : Link :=
  { k with replay := [], credits := [], credit2 := 0, grants := [], nakFor := none, nakCount := 0, dropping := false, sentNak := none }

/-- Whether a link belongs to a ring port. -/
def onRing (d : Dev) (l : Nat) : Bool := decide (portOfLink l = ringPort d 0) || decide (portOfLink l = ringPort d 1)

/-- A link that does not run: no partner, no lane in use (R319). -/
def dimmed (k : Link) (next : LinkState) : Link := { k with state := next, partner := [], used := 0 }

/-- Whether a ring of more than one package is UP: the loss of a port makes it DOWN (R286). -/
def ringPorts (d : Dev) : Bool := ringUp d && decide (og d 0x3000 2 ≠ 1)

/-- A link leaves ACTIVE for state `next`: its port goes down, what was outstanding on it is lost, and a ring that it carries is DOWN (R284,
R286, R306). -/
def leaveActive (d : Dev) (l : Nat) (next : LinkState) : Dev :=
  let code := portOfLink l
  let lost := lostTrains d code
  let d := (portLinks code).foldl (fun d m => linkUpd d m fun k => { k with replay := [], credits := [], credit2 := 0, grants := [] }) d
  let d := linkUpd d l fun k => dimmed (clearLink k) next
  let d := cutPort d code
  let d := if onRing d l && ringPorts d then oset d 0x3000 5 4 else d
  loseReads (lost.foldl (fun d t => loseTrain d t.2) d) code

/-- The upstream is lost with link `l`; another link may serve (R326, R327). -/
def betterTime (d : Dev) (a b : Nat) : Bool :=
  decide ((linkOf d a).hops < (linkOf d b).hops) || (decide ((linkOf d a).hops = (linkOf d b).hops) && decide (a < b))

/-- Links whose partner can serve as upstream: CONVERGED, or the master (R326). -/
def timeSources (d : Dev) : List Nat :=
  (List.range 19).filter fun l => linkActive d l && (decide ((linkOf d l).tstate = 2) || decide ((linkOf d l).tstate = 4))

/-- The best upstream: lowest master serial, then lowest hops, then lowest port code and engine. -/
def bestTime (d : Dev) : Option Nat :=
  let ls := timeSources d
  let low := ls.foldl (fun m l => min m (linkOf d l).master.toNat) (2 ^ 64)
  (ls.filter fun l => decide ((linkOf d l).master.toNat = low)).foldl (fun best l => match best with
    | some b => if betterTime d l b then some l else some b
    | none => some l) none

/-- A follower chooses its upstream anew when it has none left: another link, or HOLDOVER with TIME_LOST once (R326, R327). -/
def timeLost (d : Dev) : Dev :=
  let t := d.otime
  if t.state = 4 then d
  else match t.upstream with
    | none => d
    | some l =>
      if linkActive d l then d
      else match bestTime d with
        | some u => { d with otime := { t with upstream := some u, hops := min 0xFFFF ((linkOf d u).hops + 1), master := (linkOf d u).master, goodRun := 0, badRun := 0 } }
        | none =>
          let d := { d with otime := { t with upstream := none, hops := 0xFFFF, state := 3, goodRun := 0, badRun := 0 } }
          windfall d 0x0032 sNone 0xFF (hubPath d 31 31 27)

/-- Object 0x3100 + e of the physical engine of a link (R319). -/
def linkObj (d : Dev) (l : Nat) : Nat := 0x3100 + physOptic d (min l 15)

/-- A link is declared down (R317). -/
def linkDown (d : Dev) (l : Nat) : Dev :=
  if linkAlive d l then
    let d := leaveActive d l .quiet
    let d := linkUpd d l fun k => { k with fails := 0 }
    let d := obump d 32 (linkObj d l) 13 1
    timeLost (windfall d 0x0010 (if onRing d l then sRing else sNone) 0xFF (linkPath d l))
  else d

end Sys2Proof.Machine
end

