-- ==== Sys2Proof/Machine/Ring.lean ====
section
/-! DEFINITION. Ring operation (R283 to R305): forming, send lists, receiving and forwarding trains, landing units, accumulating
gradients. -/

namespace Sys2Proof.Machine

/-! ### Forming (R285, R286) -/

/-- Every link of the ring ports holds no credit when the ring comes UP (R301). Log entry 102, DEDUCED. -/
def clearRingCredits (d : Dev) : Dev :=
  (portLinks (ringPort d 0) ++ portLinks (ringPort d 1)).foldl (fun d l => linkUpd d l fun k =>
    { k with credits := [], credit2 := 0, grants := [] }) d

/-- RING_ENABLE is written (R286). -/
def ringEnableApply (d : Dev) (v : Nat) : Dev :=
  let old := og d 0x3000 5
  let d := oset d 0x3000 1 v
  if v = 0 then oset d 0x3000 5 0
  else if old ≠ 0 then d
  else if og d 0x3000 2 = 1 then oset d 0x3000 5 2
  else oset d 0x3000 5 1

/-- Whether every link of a port names one partner of this ring at position `pos` (R286, R313). -/
def partnerOk (d : Dev) (code pos : Nat) : Bool :=
  let bs := (portLinks code).map fun l => (linkOf d l).partner
  let serial := fld (bs.headD []) 0 8
  bs.all fun b => decide (fld b 0 8 = serial) && decide (fld b 18 4 = og d 0x3000 4) && decide (fld b 22 2 = og d 0x3000 2) &&
    decide (fld b 24 2 = pos)

/-- The check of one ring port, none until every link of it has its partner's data. -/
def portCheck (d : Dev) (dir pos : Nat) : Option Bool :=
  if portUp d (ringPort d dir) then some (partnerOk d (ringPort d dir) pos) else none

/-- RING_FORM_CHECK: the ring is UP when the checks of both ports pass, and MISWIRED when either fails (R286). -/
def ringFormCheck (d : Dev) : Dev :=
  let len := og d 0x3000 2
  let pos := og d 0x3000 3
  let east := portCheck d 0 ((pos + 1) % len)
  let west := portCheck d 1 ((pos + len - 1) % len)
  if og d 0x3000 5 ≠ 1 then d
  else if east = some true ∧ west = some true then clearRingCredits (oset d 0x3000 5 2)
  else if east = some false ∨ west = some false then windfall (oset d 0x3000 5 3) 0x0020 sRing 0xFF (ringPath d)
  else d

def execRingFormCheck (s : State) : Host.Outcome State Fault Refusal := .next { s with dev := ringFormCheck s.dev }

/-! ### Send lists (R294, R295) -/

/-- A send list entry. -/
structure SendEntry where
  kind : Nat
  fmt : Nat
  layer : Nat
  tensor : Nat
  src : Nat
  first : Nat
  units : Nat
  go : Nat
  goN : Nat
  done : Nat
  per : Nat
  deriving DecidableEq, Repr

def parseSend (b : List Byte) : SendEntry :=
  let k := fld b 0 1
  ⟨k, fld b 1 1, fld b 2 2, fld b 4 4, fld b 8 8, fld b 16 4, fld b 20 4, fld b 24 2, fld b 26 2, fld b 28 2,
    if k = 1 ∧ fld b 30 1 = 0 then 256 else fld b 30 1⟩

/-- Bytes of a unit: a segment, or a chunk (R292). -/
def unitBytes (kind fmt : Nat) : Nat := if kind = 1 then segBytes (if bit fmt 3 then 2 else 0) (fmt % 8) else 1024

def sendOf (k : Ctx) (dir : Nat) : SendList := if dir = 0 then k.east else k.west
def sendUpd (d : Dev) (x dir : Nat) (f : SendList → SendList) : Dev :=
  ctxUpd d x fun k => if dir = 0 then { k with east := f k.east } else { k with west := f k.west }

/-- The address and count of a send list (R287). -/
def listVa (d : Dev) (x dir : Nat) : Nat := og d (if dir = 0 then 0x3022 else 0x3024) (x + 1)
def listCount (d : Dev) (x dir : Nat) : Nat := og d (if dir = 0 then 0x3023 else 0x3025) (x + 1)

/-- Reads the current entry of a list; the first one was read at the graph's start (R287). -/
def readEntry (d : Dev) (x dir : Nat) : Option SendEntry × Dev :=
  let l := sendOf (ctxOf d x) dir
  match (if l.entry = 0 then l.first else none) with
  | some b => (some (parseSend b), d)
  | none => match unitRead d x (listVa d x dir + 32 * l.entry) 32 with
    | (some b, d) => (some (parseSend b), d)
    | (none, d) => (none, d)

/-- Whether a tally reference names a tally that a context's list may use; its bit 15 is reserved (R14, R202, R229). -/
def listTally (d : Dev) (x r : Nat) : Bool := bit (maskOf d x) (refCl r)

/-- Whether an entry's GO wait can be taken (R294, R295). -/
def goOk (d : Dev) (x : Nat) (e : SendEntry) : Bool := decide (e.go = 0xFFFF) || (listTally d x e.go && decide (1 ≤ e.goN))

/-- Whether an entry's fields are valid (R294). -/
def entryOk (d : Dev) (x dir : Nat) (e : SendEntry) : Bool :=
  (decide (e.kind = 1) || (decide (e.kind = 2) && decide (dir = 0) && decide (e.fmt % 16 = 0))) &&
    (decide (e.kind ≠ 1) || decide (e.fmt % 8 ≤ 4)) && decide (e.src % 64 = 0) && decide (1 ≤ e.units) && decide (e.units ≤ 2 ^ 24) &&
    decide (1 ≤ e.per) && (decide (e.kind = 1) || decide (e.per ≤ 64)) && goOk d x e && (decide (e.done = 0xFFFF) || listTally d x e.done)

/-- Whether a range lies wholly in mapped HBM or tier pages that hold frames (R295). -/
def inFrames (d : Dev) (x va n : Nat) : Bool :=
  decide (va + n ≤ 2 ^ 52) && (splitVa (n / 65536 + 2) va n).all fun e => match pageAt d x e.1 with
    | some p => decide (p.kind < 2) && p.frame.isSome
    | none => false

/-- A list stops with a windfall (R295). -/
def sendFail (d : Dev) (x dir code : Nat) : Dev :=
  windfall (sendUpd d x dir fun l => { l with on := false, go := false }) code sCtx x (ringPath d)

/-- Step 1 of R295: the wait on GO_TALLY, as a WAIT does (R226, R227, R232). -/
def goWait (d : Dev) (x dir : Nat) (e : SendEntry) : Dev :=
  let pass (d : Dev) : Dev := sendUpd d x dir fun l => { l with go := true }
  if e.go = 0xFFFF then pass d
  else
    let key := e.go % 32768
    let y := tallyOf d key
    let join (g : Option (BitVec 8)) : Dev :=
      sendUpd (tallySet d key { y with line := y.line ++ [(.sendList x dir, BitVec.ofNat 24 e.goN, g)] }) x dir fun l => { l with waiting := true }
    if y.inuse = false then sendFail d x dir 0x0021
    else if y.barrier then join (some y.gen)
    else if y.line.isEmpty && decide (e.goN ≤ y.count.toNat) then pass (tallySet d key { y with count := y.count - BitVec.ofNat 24 e.goN })
    else join none

/-- Step 2 of R295, before the first unit of an entry: its fields, and its source, which a resident context does not read (R288). -/
def entryCheck (d : Dev) (x dir : Nat) (e : SendEntry) : Dev :=
  if (sendOf (ctxOf d x) dir).unit ≠ 0 then d
  else if !entryOk d x dir e then sendFail d x dir 0x0021
  else if ringBound d x && !inFrames d x (e.src + unitBytes e.kind e.fmt * e.first) (unitBytes e.kind e.fmt * e.units) then sendFail d x dir 0x0026
  else d

/-- Whether a list may act: its graph runs, a pre-emption waits for it, or it is a resident list, which no graph waits for (R288, R295,
R305). Log entry 151, DEDUCED. -/
def sendMay (d : Dev) (x : Nat) : Bool :=
  let k := ctxOf d x
  decide (k.state = .running) || (decide (k.state = .preempting) && decide (k.hkind = 1) && !k.harvesting) ||
    (decide (k.state = .idle) && decide (og d 0x3020 (x + 1) ≠ 1))

/-- SEND_ENTRY_GO: the entry's GO wait, and once that is over its fields and its source (R288, R295). Log entry 95, DEDUCED. -/
def sendGo (d : Dev) (x dir : Nat) : Dev :=
  let l := sendOf (ctxOf d x) dir
  if !l.on ∨ l.waiting ∨ l.go ∨ !sendMay d x ∨ (ctxOf d x).state = .preempting then d
  else match readEntry d x dir with
    | (none, d) => sendFail d x dir 0x0021
    | (some e, d) =>
      if !goOk d x e then sendFail d x dir 0x0021
      else
        let d := goWait d x dir e
        if (sendOf (ctxOf d x) dir).go && (sendOf (ctxOf d x) dir).on then entryCheck d x dir e else d

def execSendEntryGo (x dir : Nat) (s : State) : Host.Outcome State Fault Refusal :=
  atCtx x s fun d => if dir < 2 then sendGo d x dir else d

/-- A train header; OTIME is stamped when it leaves (R292). -/
def trainHeader (d : Dev) (x dir : Nat) (e : SendEntry) (first units seq : Nat) (last : Bool) : List Byte :=
  let len := ringLen d x
  let pos := ringPos d x
  toLE 1 e.kind ++ toLE 1 x ++ toLE 1 (if e.kind = 1 then e.fmt % 16 else 0) ++ toLE 1 (dir + 2 * b2n last) ++ toLE 4 e.tensor ++
    toLE 2 e.layer ++ toLE 2 (if e.kind = 1 then pos else (pos + len - 1) % len) ++ toLE 2 0 ++ toLE 2 len ++ toLE 4 first ++ toLE 2 units ++
    toLE 2 0 ++ toLE 4 seq ++ toLE 4 (og d 0x3000 4) ++ zeros 32

/-- Where the next train of an entry finds its units, and how many it takes (R294). -/
def nextUnits (d : Dev) (x dir : Nat) (e : SendEntry) : Nat × Nat :=
  let u := (sendOf (ctxOf d x) dir).unit
  (e.src + unitBytes e.kind e.fmt * (e.first + u), min e.per (e.units - u))

/-- Whether a flagged requester of ring sends keeps a list waiting: the fabric port of the ring, or the queues of HBM (R168, R170). -/
def sendWaits (d : Dev) (x dir : Nat) (e : SendEntry) : Bool :=
  let p := nextUnits d x dir e
  hubFlagged d 4 || hbmWaits d x 2 p.1 (unitBytes e.kind e.fmt * p.2)

/-- Builds and queues the next train of an entry (R293 to R295). -/
def makeTrain (d : Dev) (x dir : Nat) (e : SendEntry) : Dev :=
  let u := (sendOf (ctxOf d x) dir).unit
  let (va, n) := nextUnits d x dir e
  let last := decide (e.units ≤ u + n)
  match readVa d x va (unitBytes e.kind e.fmt * n) with
  | .ok b d =>
    if (ctxOf d x).state = .frozen then d
    else
      let t := newTrain (if e.kind = 1 then 0 else 1) x 0 (trainHeader d x dir e (e.first + u) n (look 0 (ctxOf d x).sent (2 * e.kind + dir)) last ++ b)
      queueTrain d (ringPort d dir) { t with own := some ⟨dir, n, last, if last then e.done else 0xFFFF⟩ }
  | _ => sendFail d x dir 0x0026

/-- Whether a list's train waits at egress or is being sent there; a list has one at a time (R295). -/
def sending (d : Dev) (x dir : Nat) : Bool :=
  (portOf d (ringPort d dir)).egress.any fun t => decide (t.ctx = x) && decide (t.own.map Sent.dir = some dir)

/-- TRAIN_SEND: the next train of the entry is built and takes its place at egress, which grants what it can; an entry of a resident
context performs its DONE_TALLY (R288, R295). -/
def trainSend (d : Dev) (x dir : Nat) : Dev :=
  let l := sendOf (ctxOf d x) dir
  if sending d x dir then egressGrant d (ringPort d dir)
  else if !l.on ∨ !l.go ∨ !sendMay d x then d
  else match readEntry d x dir with
    | (none, d) => sendFail d x dir 0x0021
    | (some e, d) =>
      let d := entryCheck d x dir e
      if !(sendOf (ctxOf d x) dir).on then d
      else if !ringBound d x then nextEntry (hwSignal d 64 e.done 1 .package x) x dir
      else if !ringUp d || sendWaits d x dir e then d
      else egressGrant (makeTrain d x dir e) (ringPort d dir)

def execTrainSend (x dir : Nat) (s : State) : Host.Outcome State Fault Refusal :=
  atCtx x s fun d => settle (if dir < 2 then trainSend d x dir else d)

/-! ### Receiving (R293, R296) -/

/-- The hops that a train has completed on arrival, its expected position, and its origin (R293). -/
def hopsOf (h : List Byte) : Nat := fld h 12 2 + 1
def isWest (h : List Byte) : Bool := bit (fld h 3 1) 0
def expectedPos (h : List Byte) (len : Nat) : Nat :=
  let s := fld h 10 2
  if fld h 0 1 = 2 then (s + 1 + hopsOf h) % len
  else if isWest h then (s + len * hopsOf h - hopsOf h) % len
  else (s + hopsOf h) % len
def originPos (h : List Byte) (len : Nat) : Nat := if fld h 0 1 = 2 then (fld h 10 2 + 1) % len else fld h 10 2 % len

/-- The key of the expected SEQ for (KIND, DIR, origin). -/
def seqKey (h : List Byte) (len : Nat) : Nat := (2 * fld h 0 1 + b2n (isWest h)) * 65536 + originPos h len

/-- The first check of R293 that a header fails, 0 for none. -/
def headerCheck (d : Dev) (h : List Byte) : Nat :=
  let kind := fld h 0 1
  let x := fld h 1 1
  let n := fld h 20 2
  let len := og d 0x3000 2
  let st := (ctxOf d x).state
  if !(decide (kind = 1) || decide (kind = 2)) ∨ (kind = 1 ∧ 4 < fld h 2 1 % 8) ∨ (kind = 2 ∧ isWest h) ∨ n = 0 ∨
      (if kind = 1 then 256 else 64) < n then 0x0021
  else if fld h 28 4 ≠ og d 0x3000 4 ∨ fld h 14 2 ≠ len then 0x0020
  else if 64 ≤ x ∨ !ringBound d x ∨ !(decide (st = .idle) || decide (st = .running)) then 0x0022
  else if expectedPos h len ≠ og d 0x3000 3 then 0x0023
  else if fld h 24 4 ≠ look 0 (ctxOf d x).expected (seqKey h len) then 0x0024
  else 0

/-- A discarded train's windfall; a forced pre-emption raises RING_NOT_READY once (R293, R305). Log entry 99, DEDUCED. -/
def refuseTrain (d : Dev) (code : Nat) (h : List Byte) : Dev :=
  let x := fld h 1 1
  let k := ctxOf d x
  let forced := decide (x < 64) && decide (k.state = .preempting) && decide (2 ≤ k.hkind)
  if code = 0x0020 then windfall d code sRing (if x < 64 then x else 0xFF) (ringPath d)
  else if code = 0x0022 ∧ forced = true ∧ k.notReady = true then d
  else
    let d := if forced then ctxUpd d x fun k => { k with notReady := true } else d
    windfall d code sCtx (if x < 64 then x else 0xFF) (ringPath d)

/-- Appends bytes to a train that waits at egress, cut into flits as they fill. -/
def EgTrain.append (t : EgTrain) (bs : List Byte) (last : Bool) : EgTrain :=
  let all := t.tail ++ bs
  let whole := cutFlits (all.length / 248 + 1) all
  if last then { t with chunks := t.chunks ++ whole, tail := [], more := false }
  else { t with chunks := t.chunks ++ whole.filter fun c => decide (c.length = 248), tail := (whole.filter fun c => decide (c.length < 248)).flatten }

/-- Appends bytes to the train that carries a received one on. -/
def passOn (d : Dev) (code : Nat) (goesOn : Option Nat) (bs : List Byte) (last : Bool) : Dev :=
  match goesOn with
  | none => d
  | some i => portUpd d (acrossPort d code) fun p =>
    { p with egress := p.egress.map fun t => if t.id = i then t.append bs last else t }

/-- Opens the egress train that carries a received one on, its header with HOPS rewritten (R296). -/
def openForward (d : Dev) (code : Nat) (h : List Byte) : Option Nat × Dev :=
  let out := acrossPort d code
  let h' := h.take 12 ++ toLE 2 (hopsOf h) ++ h.drop 14
  let t : EgTrain := { newTrain (if fld h 0 1 = 1 then 0 else 1) (fld h 1 1) 0 [] with forwarded := true, chunks := [], more := true, head := h' }
  (some (portOf d out).nextId, queueTrain d out (t.append h' false))

/-- The trains being received on a STREAM, oldest first: a STREAM is free again after LAST, when its train may still be landing (R290). -/
def rxsAt (d : Dev) (code stream : Nat) : List RxTrain := look [] (portOf d code).rxs stream
def rxsSet (d : Dev) (code stream : Nat) (l : List RxTrain) : Dev := portUpd d code fun p => { p with rxs := put [] p.rxs stream l }

/-- The oldest train of a STREAM, which lands or is added first; its new state, or none once it is over. -/
def rxOf (d : Dev) (code stream : Nat) : Option RxTrain := (rxsAt d code stream).head?
def rxSet (d : Dev) (code stream : Nat) (r : Option RxTrain) : Dev :=
  rxsSet d code stream (r.toList ++ (rxsAt d code stream).drop 1)

/-- A train that a new one on its STREAM cuts short, as where its sender froze, is over: nothing more of it goes on (R290, R337). -/
def endBroken (d : Dev) (code stream : Nat) : Dev :=
  let cut := ((rxsAt d code stream).filter fun r => !r.finished).filterMap RxTrain.goesOn
  let d := portUpd d (acrossPort d code) fun p => { p with egress := p.egress.filter fun t => !cut.contains t.id }
  rxsSet d code stream ((rxsAt d code stream).filter RxTrain.finished)

/-- The first flit of a train: its header is checked, and it goes on at once unless it ends here (R293, R296, R299, R300). -/
def startTrain (d : Dev) (code stream : Nat) (pay : List Byte) (last : Bool) : Dev :=
  let h := pay.take 64
  let bad := if pay.length < 64 then 0x0021 else headerCheck d h
  let d := endBroken d code stream
  let open_ (d : Dev) (r : RxTrain) : Dev := rxsSet d code stream (rxsAt d code stream ++ [r])
  if bad ≠ 0 then
    let d := refuseTrain d bad (h ++ zeros (64 - h.length))
    if last then d else open_ d ⟨h, [], fld h 1 1, true, false, 0, none, []⟩
  else
    let x := fld h 1 1
    let len := og d 0x3000 2
    let d := wakeBy d 4
    let d := ctxUpd d x fun k => { k with expected := put 0 k.expected (seqKey h len) ((fld h 24 4 + 1) % 2 ^ 32) }
    let (on, d) := if hopsOf h = len - 1 then (none, d) else openForward d code h
    let d := if fld h 0 1 = 1 then passOn d code on (pay.drop 64) last else d
    open_ d ⟨h, pay.drop 64, x, false, last, 0, on, []⟩

/-- A train that has landed or been added whole leaves; one that goes no further is retired (R285, R299). -/
def endRx (d : Dev) (code stream : Nat) (r : RxTrain) : Dev :=
  if r.finished ∧ r.units = fld r.header 20 2 then
    let d := if r.goesOn = none then obump d 64 0x3001 5 1 else d
    rxSet d code stream none
  else rxSet d code stream (some r)

/-- Ends a train whose last flit has come with all its units done already. -/
def closeRx (d : Dev) (code stream : Nat) (r : RxTrain) (earlier : List RxTrain) : Dev :=
  if r.finished ∧ r.units = fld r.header 20 2 then
    rxsSet (if r.goesOn = none then obump d 64 0x3001 5 1 else d) code stream earlier
  else rxsSet d code stream (earlier ++ [r])

/-- A later flit of the newest train of a STREAM. -/
def goOnTrain (d : Dev) (code stream : Nat) (pay : List Byte) (last : Bool) : Dev :=
  let l := rxsAt d code stream
  match l.getLast? with
  | none => d
  | some r =>
    if r.finished then d
    else if r.discard then (if last then rxsSet d code stream l.dropLast else d)
    else
      let d := if fld r.header 0 1 = 1 then passOn d code r.goesOn pay last else d
      closeRx d code stream { r with payload := r.payload ++ pay, finished := last } l.dropLast

/-- A flit of VC 0 or VC 1 in the order of its port; a ring that is not UP takes none (R286, R296). -/
def takeFlit (d : Dev) (code : Nat) (f : List Byte) : Dev :=
  if !(decide (code = ringPort d 0) || decide (code = ringPort d 1)) ∨ !ringUp d then d
  else if flitFirst f then startTrain d code (flitStream f) (flitPayload f) (flitLast f)
  else goOnTrain d code (flitStream f) (flitPayload f) (flitLast f)

/-- A flit spends one grant of its port when it is merged (R301). -/
def useGrant (d : Dev) (code : Nat) (f : List Byte) : Dev :=
  let dec (key : Nat) : Dev := linkUpd d (leadLink code) fun k => { k with grants := upd 0 k.grants key fun n => n - 1 }
  if flitVc f = 2 then dec vc2Key
  else if flitFirst f then dec (creditKey (fld (flitPayload f) 1 1) (flitVc f))
  else match (rxsAt d code (flitStream f)).getLast? with
    | some r => dec (creditKey r.ctx (flitVc f))
    | none => d

/-- Merges the flits of a bond in the order in which they were dealt (R284). -/
def mergeFlits (code : Nat) : Nat → Dev → Dev
  | 0, d => d
  | n + 1, d =>
    let p := portOf d code
    match look [] p.early p.merged with
    | [] => d
    | f :: r =>
      let d := portSet d code { p with early := put [] p.early p.merged r, merged := (p.merged + 1) % (portLinks code).length }
      let d := useGrant d code f
      mergeFlits code n (if flitVc f < 2 then takeFlit d code f else d)

/-- FLIT_RECEIVE: the CRC, the order, the NAK, then the merge of the port, which is over while the port is down (R284, R296, R302, R306, R315,
R316). A flit of VC 3 is LINK_CONTROL_RECEIVE's; a time train is not dealt over a bond (log entry 51, DEDUCED). -/
def flitReceive (d : Dev) (l : Nat) (f : List Byte) : Dev :=
  let k := linkOf d l
  let code := portOfLink l
  if !linkAlive d l then d
  else if !flitGood f then sendControl (linkSet d l { k with dropping := true }) l
  else if flitVc f = 3 ∨ !linkActive d l then d
  else if flitSeq f ≠ (if k.rxAny then (k.rx + 1).toNat else 0) then d
  else
    let d := linkSet d l { k with rx := BitVec.ofNat 12 (flitSeq f), rxAny := true, dropping := false, sentNak := none }
    if flitVc f = 2 ∧ flitFirst f ∧ fld (flitPayload f) 0 1 = 0x10 then useGrant d code f
    else if !portUp d code then d
    else
      let m := (portLinks code).idxOf l
      mergeFlits code 4096 (portUpd d code fun p => { p with early := put [] p.early m (look [] p.early m ++ [f]) })

def execFlitReceive (l : Nat) (flit : List Byte) (s : State) : Host.Outcome State Fault Refusal :=
  atLink l s fun d => flitReceive d l flit

/-- FLIT_FORWARD: the egress of the link's port grants once (R161, R304). -/
def execFlitForward (l : Nat) (s : State) : Host.Outcome State Fault Refusal :=
  atLink l s fun d => settle (egressGrant d (portOfLink l))

/-! ### Landing weights (R297 to R299) -/

/-- The 64 entries of a landing table. Log entry 97, DEDUCED. -/
def landEntries (k : Ctx) : List (List Byte) := (List.range 64).map fun i => (k.landing.drop (64 * i)).take 64

/-- Whether a unit matches an entry (R297). -/
def landMatch (e h : List Byte) (u : Nat) : Bool :=
  decide (fld e 8 1 = fld h 0 1) && decide (fld e 8 1 ≠ 0) && decide ((fld e 0 4 ^^^ fld h 4 4) &&& fld e 4 4 = 0) &&
    decide (fld e 20 4 ≤ u) && decide (u < fld e 20 4 + fld e 24 4)

/-- The receiving cores of a WEIGHTS entry in order (R298). -/
def landCores (e : List Byte) : List Nat := (clustersIn (fld e 12 4)).flatMap fun cl => (coresAt cl).filter fun c => bit (fld e 16 1) (c % 8)

/-- Where a unit of a WEIGHTS entry goes: core and region key. -/
def landTarget (d : Dev) (x : Nat) (e : List Byte) (u : Nat) : Option (Nat × Nat) :=
  let cores := landCores e
  let group := fld e 18 2
  if cores = [] ∨ group = 0 ∨ 15 < fld e 9 1 ∨ !(decide (fld e 12 4 &&& maskOf d x = fld e 12 4)) then none
  else
    let c := cores.getD ((u - fld e 20 4) / group % cores.length) 0
    (regionKey c (fld e 9 1)).map fun k => (c, k)

/-- How a landing stands: it can go, it waits, or the region does not serve (R298). -/
inductive Landing where
  | ready (c key : Nat)
  | waits
  | bad
  deriving DecidableEq, Repr

def landingOf (d : Dev) (x : Nat) (e : List Byte) (u size : Nat) : Landing :=
  match landTarget d x e u with
  | none => .bad
  | some (c, key) =>
    let r := regionOf d (clOf c) key
    if !r.valid ∨ r.item ≠ size then .bad else if r.count = r.cap ∨ r.opened ∨ r.discP then .waits else .ready c key

/-- A signal of a landing to the tally of a cluster, 0xFFFF for none (R298, R300). Log entry 96, DEDUCED. -/
def landSignal (d : Dev) (x cl idx : Nat) : Dev := if idx = 0xFFFF then d else hwSignal d 64 (1024 * cl + idx % 1024) 1 .package x

/-- Writes one unit as an item and commits it, once the region has taken it; after the last unit of its group or entry its tally is
signalled (R298). -/
def landUnit (d : Dev) (x : Nat) (e : List Byte) (u : Nat) (bs : List Byte) (c key : Nat) : Dev :=
  let r := regionOf d (clOf c) key
  match produce r with
  | .complete r1 => match commitItem r1 with
    | .complete r2 =>
      let d := regionSet (memWrite d x (spKey c (itemAddr r r.tail)) bs) (clOf c) key r2
      let i := u - fld e 20 4
      if (i + 1) % fld e 18 2 = 0 ∨ i + 1 = fld e 24 4 then
        landSignal d x (clOf c) (if fld e 10 2 = 0xFFFF then 0xFFFF else fld e 10 2 + c % 8) else d
    | _ => d
  | _ => d

/-- Discards a train that is being received: nothing more of it lands or goes on (R293, R298, R300). -/
def dropRx (d : Dev) (code stream : Nat) (r : RxTrain) : Dev :=
  let d := portUpd d (acrossPort d code) fun p => { p with egress := p.egress.filter fun t => some t.id ≠ r.goesOn }
  rxSet d code stream (if r.finished then none else some { r with discard := true, payload := [], goesOn := none })

/-- The landing entries of a context that a unit matches, by number (R297). -/
def matching (d : Dev) (r : RxTrain) (u : Nat) : List (Nat × List Byte) :=
  ((List.range 64).zip (landEntries (ctxOf d r.ctx))).filter fun e => landMatch e.2 r.header u

/-- Lands a unit in the entries that have not taken it: each does when it can, and one that waits keeps the unit; a region that does not
serve discards the train (R298). Log entry 98, DEDUCED. -/
def landEach (code stream u size : Nat) : List (Nat × List Byte) → Dev → RxTrain → Dev × Option RxTrain
  | [], d, r => (d, some r)
  | e :: es, d, r =>
    match landingOf d r.ctx e.2 u size with
    | .bad => (windfall (dropRx d code stream r) 0x0025 sCtx r.ctx (ringPath d), none)
    | .waits => landEach code stream u size es d r
    | .ready c key =>
      if hubFlagged d 4 || fabricFlagged d (clOf c) 4 then landEach code stream u size es d r
      else
        let r' := { r with landed := r.landed ++ [e.1] }
        let d := landUnit (rxSet d code stream (some r')) r.ctx e.2 u (r.payload.take size) c key
        if rxOf d code stream = some r' then landEach code stream u size es d r' else (d, none)

/-- UNIT_LAND: the next unit of a weights train lands in every entry that it matches, or waits (R297, R298). -/
def unitLand (d : Dev) (code stream : Nat) : Dev :=
  match rxOf d code stream with
  | none => d
  | some r =>
    let size := unitBytes 1 (fld r.header 2 1)
    if sleep d ≠ 0 ∨ r.discard ∨ fld r.header 0 1 ≠ 1 ∨ r.payload.length < size ∨ fld r.header 20 2 ≤ r.units then d
    else
      let u := fld r.header 16 4 + r.units
      let es := matching d r u
      match landEach code stream u size (es.filter fun e => !r.landed.contains e.1) d r with
      | (d, none) => d
      | (d, some r) =>
        if !(es.all fun e => r.landed.contains e.1) then d
        else
          let d := if es = [] then obump d 64 0x3001 6 1 else d
          endRx d code stream { r with payload := r.payload.drop size, units := r.units + 1, landed := [] }

/-- The port of an ingress: 0 the east port, 1 the west port. -/
def ingress (d : Dev) (port : Nat) : Nat := ringPort d port

def execUnitLand (port stream : Nat) (s : State) : Host.Outcome State Fault Refusal :=
  if port < 2 then .next { s with dev := settle (unitLand s.dev (ingress s.dev port) stream) } else .next s

/-! ### Adding gradients (R300) -/

/-- The words of a chunk. -/
def chunkWords (b : List Byte) : List W32 := (List.range 256).map fun i => BitVec.ofNat 32 (fld b (4 * i) 4)

/-- round32(g + c) of each element, and the flags of all. -/
def addChunks (g c : List Byte) : List Byte × Half :=
  let rs := (List.zip (chunkWords g) (chunkWords c)).map fun e => f32Add .rne e.1 e.2
  (rs.flatMap fun r => toLE 4 r.1.toNat, rs.foldl (fun f r => f ||| r.2) 0)

/-- GRADIENT_ACCUMULATE: the next chunk of a gradient train is added to the local contribution, and goes on, or is written at the home
(R300). -/
def accumulate (d : Dev) (code stream : Nat) : Dev :=
  match rxOf d code stream with
  | none => d
  | some r =>
    let h := r.header
    let n := fld h 20 2
    if sleep d ≠ 0 ∨ r.discard ∨ fld h 0 1 ≠ 2 ∨ r.payload.length < 1024 ∨ n ≤ r.units then d
    else
      let x := r.ctx
      let u := fld h 16 4 + r.units
      let home := decide (r.goesOn = none)
      match (landEntries (ctxOf d x)).find? fun e => landMatch e h u with
      | none => windfall (dropRx d code stream r) 0x0025 sCtx x (hubPath d 31 31 21)
      | some e =>
        let cva := fld e 32 8 + fld h 10 2 * fld e 40 8 + 1024 * u
        let rva := fld e 48 8 + 1024 * u
        if !inHbm d x cva 1024 false ∨ (home ∧ !inHbm d x rva 1024 true) then
          windfall (dropRx d code stream r) 0x0025 sCtx x (hubPath d 31 31 21)
        else if hbmWaits d x 2 cva 1024 || (home && hbmWaits d x 2 rva 1024) then d
        else match readVa d x cva 1024 with
          | .ok c d =>
            if rxOf d code stream ≠ some r then d
            else
              let (sum, fl) := addChunks (r.payload.take 1024) c
              let d := oset d 0x3026 (x + 1) ((og d 0x3026 (x + 1)) ||| fl.toNat)
              let lastChunk := decide (r.units + 1 = n)
              let d := if home then unitWrite d x rva sum else passOn d code r.goesOn sum lastChunk
              let d := if home && lastChunk && bit (fld h 3 1) 1 then landSignal d x (homeOf (fld e 12 4)) (fld e 10 2) else d
              if (rxOf d code stream) = some r then endRx d code stream { r with payload := r.payload.drop 1024, units := r.units + 1 } else d
          | _ => d

def execGradientAccumulate (port stream : Nat) (s : State) : Host.Outcome State Fault Refusal :=
  if port < 2 then .next { s with dev := settle (accumulate s.dev (ingress s.dev port) stream) } else .next s

end Sys2Proof.Machine
end

