-- ==== Sys2Proof/Machine/Links.lean ====
section
/-! DEFINITION. Optical links (R308 to R320): training, link control, lane wear, fibres, link commands, routing. -/

namespace Sys2Proof.Machine

/-! ### Engines and lanes (R308 to R311) -/

/-- The links of a logical engine: engine 15 has the four global ports. -/
def linksOf (e : Nat) : List Nat := if e < 15 then [e] else [15, 16, 17, 18]

/-- The logical engine that a physical one serves, none for a spare (R309). -/
def logicalOptic (d : Dev) (e : Nat) : Option Nat := (List.range 16).find? fun i => decide (physOptic d i = e)

/-- The links of a physical engine. -/
def linksAt (d : Dev) (e : Nat) : List Nat := match logicalOptic d e with | some i => linksOf i | none => []

/-- Lanes that a link can use: all 18 of an engine, or 4·g to 4·g + 3 of the global engine (R309, R311). -/
def lanesOf (l : Nat) : List Nat := if l < 15 then List.range 18 else (List.range 4).map fun i => 4 * (l - 15) + i

/-- How many of a link's lanes are in a set. -/
def lanesLit (l : Nat) (s : BitVec 18) : Nat := ((lanesOf l).filter fun i => s.getLsbD i).length

/-- Whether enough light is present for an attempt (R311). -/
def enoughLight (l : Nat) (s : BitVec 18) : Bool := if l < 15 then decide (16 ≤ lanesLit l s) else decide (2 ≤ lanesLit l s)

/-- The set of lanes in a list. -/
def laneSet (ls : List Nat) : BitVec 18 := ls.foldl (fun s i => s ||| (1 <<< i)) 0

/-- The `n` lanes with the lowest error rate, lower number first on a tie (R311). -/
def bestLanes (errs : List Nat) : Nat → List Nat → List Nat
  | 0, _ => []
  | n + 1, ls => match ls with
    | [] => []
    | h :: r =>
      let b := r.foldl (fun b i => if errs.getD i 0 < errs.getD b 0 then i else b) h
      b :: bestLanes errs n (ls.filter fun i => decide (i ≠ b))

/-- LANE_WORN of a link's engine. -/
def wornSet (d : Dev) (l : Nat) : Nat := og d (linkObj d l) 8

/-- The lanes that ALIGN chooses among those lit now, and beyond them of the others of an engine that lost light on one or two; after
RETRAIN, worn lanes are excluded while enough others are left (R311, R312, R318). -/
def alignLanes (d : Dev) (l : Nat) (errs : List Nat) : BitVec 18 :=
  let k := linkOf d l
  let lit := (lanesOf l).filter fun i => k.now.getLsbD i
  let dark := (lanesOf l).filter fun i => !k.now.getLsbD i
  let good := if k.skipWorn then lit.filter fun i => !bit (wornSet d l) i else lit
  if l < 15 then
    if 16 ≤ good.length then laneSet (bestLanes errs 16 good)
    else if 16 ≤ lit.length then laneSet (bestLanes errs 16 lit)
    else laneSet (lit ++ bestLanes errs (16 - lit.length) dark)
  else if good.length = 4 then laneSet good
  else laneSet (bestLanes errs 2 (if 2 ≤ good.length then good else lit))

/-! ### Training (R311, R312) -/

/-- A new attempt begins in DETECT. -/
def newAttempt (d : Dev) (l : Nat) : Dev :=
  linkUpd d l fun k => { k with state := .detect, retries := 0, spent := 0, began := d.otime.count, partner := [], used := 0 }

/-- An attempt fails: QUIET, or ABSENT with LINK_ABSENT at the third in a row (R312; log entry 112, DEDUCED). -/
def attemptFails (d : Dev) (l : Nat) : Dev :=
  let d := obump d 32 (linkObj d l) 9 1
  let n := (linkOf d l).fails + 1
  if 3 ≤ n then windfall (linkUpd d l fun k => { dimmed k .absent with fails := n }) 0x0011 sNone 0xFF (linkPath d l)
  else linkUpd d l fun k => { dimmed k .quiet with fails := n }

/-- Time limit in milliseconds and retry count of a training state (R311). -/
def stateLimit : LinkState → Option (Nat × Nat)
  | .detect => some (1, 15)
  | .lock => some (5, 2)
  | .align => some (2, 2)
  | .fecUp => some (1, 2)
  | .ident => some (1, 2)
  | _ => none

/-- Ticks of orchard time in 16 ms (R311, R324). -/
def attemptTicks : Nat := 12800000

/-- TRAINING_TIMEOUT: the state is entered again, or the attempt fails: its retries are used up, or 16 ms have passed (R311). Log entry 101,
DEDUCED. -/
def trainingTimeout (d : Dev) (l : Nat) : Dev :=
  let k := linkOf d l
  match stateLimit k.state with
  | none => d
  | some (ms, n) =>
    if n ≤ k.retries ∨ 16 ≤ k.spent + ms ∨ attemptTicks ≤ (d.otime.count - k.began).toNat then attemptFails d l
    else linkSet d l { k with retries := k.retries + 1, spent := k.spent + ms }

def execTrainingTimeout (l : Nat) (s : State) : Host.Outcome State Fault Refusal := atLink l s fun d => trainingTimeout d l

/-- The next state of an attempt. -/
def enterState (d : Dev) (l : Nat) (st : LinkState) : Dev := linkUpd d l fun k => { k with state := st, retries := 0 }

/-- A step of training from state `st`. -/
def inState (d : Dev) (l : Nat) (st : LinkState) (go : Dev → Dev) : Dev := if (linkOf d l).state = st then go d else d

/-- DETECT: light is present (R311). -/
def execDetect (l : Nat) (lit : BitVec 18) (s : State) : Host.Outcome State Fault Refusal :=
  atLink l s fun d => inState d l .detect fun d =>
    if enoughLight l lit then linkUpd (enterState d l .lock) l fun k => { k with lit := lit, now := lit } else d

/-- LOCK: the clock is recovered on every lit lane (R311). -/
def execLock (l : Nat) (s : State) : Host.Outcome State Fault Refusal :=
  atLink l s fun d => inState d l .lock fun d => enterState d l .align

/-- ALIGN: lanes are deskewed and chosen (R311). -/
def execAlign (l : Nat) (errs : List Nat) (s : State) : Host.Outcome State Fault Refusal :=
  atLink l s fun d => inState d l .align fun d =>
    let used := alignLanes d l errs
    linkUpd (enterState d l .fecUp) l fun k => { k with used := used }

/-- The bond member of a link of a ring port, 0 of others (R309, R313). -/
def memberOf (l : Nat) : Nat := if l < 8 then l % 4 else 0

/-- The ident block that a link sends (R313). -/
def identOut (d : Dev) (l : Nat) : List Byte :=
  let b := toLE 8 Config.serial.toNat ++ toLE 8 (fld (linkOf d l).partner 0 8) ++ toLE 2 (ownIndex d) ++ toLE 4 (og d 0x3000 4) ++
    toLE 2 (og d 0x3000 2) ++ toLE 2 (og d 0x3000 3) ++ toLE 1 (portOfLink l) ++ toLE 1 (memberOf l) ++ zeros 224
  b ++ toLE 4 (crc32 b)

/-- Whether an ident block is whole and its CRC is good (R313). -/
def identGood (b : List Byte) : Bool := decide (b.length = 256) && decide (crc32 (b.take 252) = fld b 252 4)

/-- A link sends its ident block. -/
def sendIdent (d : Dev) (l : Nat) : Dev := emit d (.flit l (identOut d l))

/-- FEC_UP: markers are locked and codewords decoded (R311); IDENT begins with the own ident block (R313; log entry 152, DESIGN CHOICE). -/
def execFecUp (l : Nat) (s : State) : Host.Outcome State Fault Refusal :=
  atLink l s fun d => inState d l .fecUp fun d => sendIdent (enterState d l .ident) l

/-- The port on which a punnet port must reach its package (R314). -/
def punnetBack (d : Dev) (code : Nat) : Nat := 3 + (ownIndex d % 8 + 8 - punnetMate d code % 8 - 1) % 8

/-- Whether a punnet port has reached the wrong partner (R314). -/
def miswired (d : Dev) (l : Nat) (b : List Byte) : Bool :=
  let code := portOfLink l
  decide (3 ≤ code) && decide (code ≤ 9) && !(decide (fld b 16 2 = punnetMate d code) && decide (fld b 26 1 = punnetBack d code))

/-- The serial number object that a ring port's partner fills, none on other ports (R285). -/
def partnerSub (d : Dev) (l : Nat) : Option Nat :=
  if portOfLink l = ringPort d 0 then some 6 else if portOfLink l = ringPort d 1 then some 7 else none

/-- A link enters ACTIVE: its link layer starts afresh (R301, R312, R314, R315). -/
def enterActive (d : Dev) (l : Nat) (b : List Byte) : Dev :=
  let d := linkUpd d l fun k =>
    { clearLink k with state := .active, fails := 0, skipWorn := false, tx := 0, rx := 0, rxAny := false, lastTx := 0, lastRx := 0,
                       hops := 0xFFFF, tstate := 0, master := 0 }
  if miswired d l b then windfall (linkUpd d l fun k => { k with state := .miswired }) 0x0012 sNone 0xFF (linkPath d l) else d

/-- IDENT: a block with a good CRC is answered by the own one, which echoes its serial number; one that echoes the own serial number
completes the attempt (R313; log entry 152, DESIGN CHOICE). -/
def identBlock (d : Dev) (l : Nat) (b : List Byte) : Dev :=
  if !identGood b then d
  else inState d l .ident fun d =>
    let d := linkUpd d l fun k => { k with partner := b.take 64 }
    let d := match partnerSub d l with
      | some sub => oset d 0x3000 sub (fld b 0 8)
      | none => d
    let d := sendIdent d l
    if fld b 8 8 = Config.serial.toNat then enterActive d l b else d

def execIdent (l : Nat) (block : List Byte) (s : State) : Host.Outcome State Fault Refusal := atLink l s fun d => identBlock d l block

/-- QUIET_END: the 1 ms is over and a new attempt begins (R312). -/
def execQuietEnd (l : Nat) (s : State) : Host.Outcome State Fault Refusal :=
  atLink l s fun d => inState d l .quiet fun d => newAttempt d l

/-- ABSENT_LIGHT: light for 1 ms begins a new attempt with the count at 0 (R312). -/
def execAbsentLight (l : Nat) (s : State) : Host.Outcome State Fault Refusal :=
  atLink l s fun d => inState d l .absent fun d => linkUpd (newAttempt d l) l fun k => { k with fails := 0 }

/-- Whether a link has lost too much light, by its state (R312, R317). -/
def tooDark (k : Link) (l : Nat) (lit : BitVec 18) : Bool :=
  let gone := k.lit &&& ~~~lit
  let usedGone := decide (k.used &&& ~~~lit ≠ 0)
  if l < 15 then decide (2 < lanesLit l gone)
  else match k.state with
    | .active => usedGone
    | .miswired => usedGone
    | _ => decide (lanesLit l lit < 2) || usedGone

/-- LIGHT_LOSS: the lanes that are lit now; too few of them fail an attempt, or take the link down (R312, R317). -/
def lightLoss (d : Dev) (l : Nat) (lit : BitVec 18) : Dev :=
  let k := linkOf d l
  let d := linkUpd d l fun k => { k with now := lit }
  if tooDark k l lit then
    match k.state with
    | .lock => attemptFails d l
    | .align => attemptFails d l
    | .fecUp => attemptFails d l
    | .ident => attemptFails d l
    | .active => linkDown d l
    | .miswired => linkDown d l
    | _ => d
  else d

def execLightLoss (l : Nat) (lit : BitVec 18) (s : State) : Host.Outcome State Fault Refusal := atLink l s fun d => lightLoss d l lit

/-- LOCK_LOSS: lock or FEC alignment is lost in ACTIVE (R317). -/
def execLockLoss (l : Nat) (s : State) : Host.Outcome State Fault Refusal := atLink l s fun d => linkDown d l

/-! ### Link control (R315 to R317) -/

def execLinkControlSend (l : Nat) (s : State) : Host.Outcome State Fault Refusal :=
  atLink l s fun d => if linkAlive d l then sendControl d l else d

/-- No link control flit for 20 µs (R317). -/
def execLinkControlTimeout (l : Nat) (s : State) : Host.Outcome State Fault Refusal := atLink l s fun d => linkDown d l

/-- The flits of a replay buffer after the one that an ACK names (R315). -/
def afterAck (replay : List Held) (ack : Nat) : List Held :=
  match replay.findIdx? fun f => decide (flitSeq f.flit = ack) with
  | some i => replay.drop (i + 1)
  | none => replay

/-- The grants of a link control flit are added to the credits of its port (R291, R301). -/
def takeGrants (k : Link) (pay : List Byte) : Link :=
  { k with
    credit2 := k.credit2 + fld pay 4 4,
    credits := (List.range 30).foldl (fun t i =>
      let e := (pay.drop (8 + 8 * i)).take 8
      if fld e 4 4 = 0 then t else upd 0 t (creditKey (fld e 0 1) (fld e 1 1 % 2)) fun n => n + fld e 4 4) k.credits }

/-- A link control flit arrives: acknowledgement, credits, and a NAK, whose fourth in a row for one ACK is a link down (R291, R315 to
R317). -/
def controlReceive (d : Dev) (l : Nat) (f : List Byte) : Dev :=
  if !linkAlive d l then d
  else if !flitGood f then sendControl (linkUpd d l fun k => { k with dropping := true }) l
  else if flitVc f ≠ 3 then d
  else
    let pay := (f.drop 4).take 248
    let w := fld pay 0 4
    let d := linkUpd d l fun k => { k with replay := if bit w 12 then afterAck k.replay (w % 4096) else k.replay }
    let d := linkUpd d (leadLink (portOfLink l)) fun k => takeGrants k pay
    if bit w 13 then
      let d := obump d 64 (linkObj d l) 12 1
      let n := if (linkOf d l).nakFor = some (w % 8192) then (linkOf d l).nakCount + 1 else 1
      if 4 ≤ n then linkDown d l
      else
        let d := linkUpd d l fun k => { k with nakFor := some (w % 8192), nakCount := n }
        (linkOf d l).replay.foldl (fun d f => emit d (.flit l f.flit)) d
    else d

def execLinkControlReceive (l : Nat) (flit : List Byte) (s : State) : Host.Outcome State Fault Refusal :=
  atLink l s fun d => controlReceive d l flit

/-! ### Wear, fibres, link commands (R310, R318, R319) -/

/-- A command at a physical engine. -/
def atOptic (e : Nat) (s : State) (go : Dev → Dev) : Host.Outcome State Fault Refusal :=
  if e < 20 then .next { s with dev := go s.dev } else .next s

/-- The link that a lane of an engine carries. -/
def laneLink (d : Dev) (e lane : Nat) : Option Nat := (linksAt d e).find? fun l => (lanesOf l).contains lane

/-- LANE_WEAR_WINDOW: a lane in ACTIVE whose count exceeds LANE_WEAR_LIMIT is worn (R318). -/
def laneWear (d : Dev) (e lane errs : Nat) : Dev :=
  match laneLink d e lane with
  | none => d
  | some l =>
    let worn := og d (0x3100 + e) 8
    if linkAlive d l && (linkOf d l).used.getLsbD lane && decide (og d 0x3010 2 < errs) && !bit worn lane then
      windfall (oset d (0x3100 + e) 8 (worn ||| 2 ^ lane)) 0x0013 sNone 0xFF (hubPath d e lane 20)
    else d

def execLaneWearWindow (e lane errs : Nat) (s : State) : Host.Outcome State Fault Refusal :=
  atOptic e s fun d => if lane < 18 then laneWear d e lane errs else d

/-- The engines that a fibre in use feeds: of its group's engines in service, the lower two by the lower of the group's fibres in use,
the others by the higher (R310; log entry 52, DEDUCED). -/
def fedBy (d : Dev) (fibre : Nat) : List Nat :=
  let g := fibre / 3
  let engines := ((List.range 5).map fun i => 5 * g + i).filter fun e => (logicalOptic d e).isSome
  let fibres := ((List.range 3).map fun i => 3 * g + i).filter fun f => d.graft.fibres.getLsbD f
  if fibres.headD 99 = fibre then engines.take 2 else if fibres.contains fibre then (engines.drop 2).take 2 else []

/-- A link whose engine is dark: down when it was ACTIVE, a failed attempt while it trained (R310, R312, R317). -/
def darken (d : Dev) (l : Nat) : Dev :=
  if linkAlive d l then linkDown d l
  else match (linkOf d l).state with
    | .lock => attemptFails d l
    | .align => attemptFails d l
    | .fecUp => attemptFails d l
    | .ident => attemptFails d l
    | _ => d

/-- FIBRE_POWER_LOSS (R310): the spare fibre comes into service only by grafting. -/
def fibreLoss (d : Dev) (fibre : Nat) : Dev :=
  if d.graft.fibres.getLsbD fibre then ((fedBy d fibre).flatMap (linksAt d)).foldl darken d else d

def execFibrePowerLoss (fibre : Nat) (s : State) : Host.Outcome State Fault Refusal :=
  if fibre < 12 then .next { s with dev := fibreLoss s.dev fibre } else .next s

/-- A link leaves its state by command. A ring that goes DOWN with it is a LINK_DOWN (R286, R306). Log entry 100, DEDUCED. -/
def commandDown (d : Dev) (l : Nat) (next : LinkState) : Dev :=
  if linkAlive d l then
    let down := onRing d l && ringPorts d
    let d := timeLost (leaveActive d l next)
    if down then windfall d 0x0010 sRing 0xFF (linkPath d l) else d
  else linkUpd d l fun k => dimmed k next

/-- What a link command does to one link (R312, R319): 1 RETRAIN, 2 DISABLE, 3 ENABLE. -/
def commandLink (code : Nat) (d : Dev) (l : Nat) : Dev :=
  let st := (linkOf d l).state
  match code with
  | 1 => linkUpd (commandDown d l .quiet) l fun k => { k with skipWorn := true }
  | 2 => commandDown d l .off
  | _ => if st = .off then newAttempt d l else d

/-- COMMAND of a physical engine acts on every port of it (R319). -/
def linkCommand (d : Dev) (e code : Nat) : Dev := (linksAt d e).foldl (commandLink code) d

/-! ### Routing (R322, R323) -/

/-- The answer to ROUTE_REQ. -/
def routeCheck (b : List Byte) : Nat :=
  let first := fld b 0 2
  let count := fld b 2 2
  if b.length < 8 ∨ b.length ≠ 8 + 2 * count then 0x0202
  else if count = 0 ∨ 1024 < count ∨ 16384 < first + count then 0x0201
  else if (List.range count).any fun i => decide (fld b (8 + 2 * i) 2 % 16 = 14) || decide (fld b (8 + 2 * i) 2 / 16 % 16 = 14) then 0x0201
  else 0

/-- Writes routing entries; their reserved bits stay 0 (R14, R322). -/
def routeApply (d : Dev) (b : List Byte) : Dev :=
  (List.range (fld b 2 2)).foldl (fun d i =>
    { d with routes := put 0x00FF d.routes (fld b 0 2 + i) (BitVec.ofNat 16 (fld b (8 + 2 * i) 2 % 256)) }) d

/-- ROUTED_TRAIN: a train of KIND 0x11 to 0x1F that arrived or originates here is delivered, sent on, or lost (R323). What a KIND other
than 0x12 does at its destination is told of no KIND (log entry 103, DESIGN CHOICE); 0x12 is FREEZE_MESSAGE's. -/
def routedTrain (d : Dev) (t : List Byte) : Dev :=
  if !isRouted t then d
  else if routeOf d (fld t 4 2) % 16 = 0 then d
  else routeTrain d t

def execRoutedTrain (l : Nat) (train : List Byte) (s : State) : Host.Outcome State Fault Refusal :=
  if l < 20 then .next { s with dev := if l = 19 ∨ linkActive s.dev l then routedTrain s.dev train else s.dev } else .next s

/-! ### Freeze messages (R336, R337) -/

/-- FREEZE_MESSAGE: a message for another package goes on; one for a context that this package holds is logged as relayed, passed along
the tree and frozen on; a context that is frozen already logs it and forwards nothing (R336). -/
def freezeMessage (d : Dev) (t : List Byte) : Dev :=
  if fld t 0 1 ≠ 0x12 then d
  else if routeOf d (fld t 4 2) % 16 ≠ 0 then routeTrain d t
  else
    let x := fld t 9 1
    let w := BitVec.ofNat 128 (fld t 16 16) ||| 0x800000
    if 64 ≤ x then d
    else if canFreeze d x then freezeCtx (logWindfall d w) w (some (fld t 6 2)) x
    else if (ctxOf d x).state = .frozen then logWindfall d w
    else d

def execFreezeMessage (l : Nat) (train : List Byte) (s : State) : Host.Outcome State Fault Refusal :=
  atLink l s fun d => if linkActive d l then freezeMessage d train else d

/-- FREEZE_COMPLETE: every row of R337 has taken effect and no flit of the context is held. -/
def execFreezeComplete (x : Nat) (s : State) : Host.Outcome State Fault Refusal :=
  atCtx x s fun d => if (ctxOf d x).state = .frozen ∧ ringTrains d x = 0 then ctxUpd d x fun k => { k with freezing := false } else d

end Sys2Proof.Machine
end

