-- ==== Sys2Proof/Machine/Otime.lean ====
section
/-! DEFINITION. Orchard time (R324 to R329): sending and receiving time trains, the upstream, TIME_ROLE, TIME_SET. -/

namespace Sys2Proof.Machine

/-- TIME_TRAIN_SEND: a time train of one flit takes its place at the egress of its link's port, which grants what it can; a link has one at
a time (R304, R325; log entry 51, DEDUCED). -/
def timeSend (d : Dev) (l : Nat) : Dev :=
  let code := portOfLink l
  if !linkActive d l then d
  else
    let waits := (portOf d code).egress.any fun t => decide (t.link = some l)
    egressGrant (if waits then d else queueTrain d code { newTrain 2 0 1 (timeHeader d l) with link := some l }) code

def execTimeTrainSend (l : Nat) (s : State) : Host.Outcome State Fault Refusal := atLink l s fun d => timeSend d l

/-- Sets orchard time. -/
def otimeUpd (d : Dev) (f : OTime → OTime) : Dev := { d with otime := f d.otime }

/-- Takes a link as upstream; the first choice is ACQUIRING (R326, R327). -/
def followLink (d : Dev) (l : Nat) : Dev :=
  let k := linkOf d l
  otimeUpd d fun t => { t with
    upstream := some l, hops := min 0xFFFF (k.hops + 1), master := k.master, state := if t.state = 0 ∨ t.state = 3 then 1 else t.state }

/-- The choice of the upstream after a time train: the present one stays until another offers MASTER_HOPS at least 2 lower, or a lower
master serial is heard (R326). -/
def chooseUpstream (d : Dev) : Dev :=
  match d.otime.upstream, bestTime d with
  | none, none => d
  | none, some b => followLink d b
  | some u, none => followLink d u
  | some u, some b =>
    if (linkOf d b).master.toNat < (linkOf d u).master.toNat ∨ (linkOf d b).hops + 2 ≤ (linkOf d u).hops then followLink d b
    else followLink d u

/-- A master that hears a lower master serial stops acting as master (R326). -/
def masterConflict (d : Dev) (l : Nat) : Dev :=
  let k := linkOf d l
  if d.otime.state = 4 ∧ k.hops ≠ 0xFFFF ∧ k.master.toNat < Config.serial.toNat then
    windfall (otimeUpd d fun t => { t with state := 0, hops := 0xFFFF, upstream := none }) 0x0030 sNone 0xFF (hubPath d 31 31 27)
  else d

/-- Half of a tick count; which way an odd one rounds is open (log entry 53, DESIGN CHOICE). -/
def half (n : Int) (free : Nat) : Int := (n + (free % 2 : Nat)) / 2

/-- Steps or slews by `off` ticks (R327): a step backward is taken only as the first. -/
def correctTime (t : OTime) (off : Int) : OTime :=
  if t.state = 1 ∧ 64 < off.natAbs ∧ (0 < off ∨ t.stepped = false) then
    { t with count := t.count + BitVec.ofInt 64 off, stepped := true, slew := 0, phase := 0 }
  else { t with slew := off }

/-- What an exchange with the upstream does (R327). -/
def exchange (d : Dev) (off : Int) : Dev :=
  let t := d.otime
  let small := decide (off.natAbs ≤ 4)
  let large := decide (64 < off.natAbs)
  match t.state with
  | 1 =>
    let good := if small then t.goodRun + 1 else 0
    otimeUpd d fun t =>
      let t := { correctTime t off with lastOffset := off }
      if 8 ≤ good then { t with state := 2, goodRun := 0, badRun := 0 } else { t with goodRun := good }
  | 2 =>
    let bad := if large then t.badRun + 1 else 0
    let d := otimeUpd d fun t => { correctTime t off with lastOffset := off, badRun := bad }
    if 8 ≤ bad then
      windfall (otimeUpd d fun t => { t with state := 1, goodRun := 0, badRun := 0 }) 0x0031 sNone 0xFF (hubPath d 31 31 27)
    else d
  | _ => d

/-- TIME_TRAIN_RECEIVE (R325 to R327): `t4` is what the counter read when the train entered the deserialiser, so that it is not ahead of the
counter; one from a replay is not used; one with no echo makes no exchange (log entry 53, DESIGN CHOICE). -/
def timeReceive (d : Dev) (l : Nat) (h : List Byte) (t4 : Word) (replayed : Bool) : Dev :=
  if !linkActive d l ∨ replayed ∨ fld h 0 1 ≠ 0x10 ∨ d.otime.count < t4 then d
  else
    let ttx := fld h 16 8
    let d := linkUpd d l fun k => { k with
      lastTx := BitVec.ofNat 64 ttx, lastRx := t4, hops := fld h 4 2, tstate := fld h 6 1, master := BitVec.ofNat 64 (fld h 8 8) }
    let d := masterConflict d l
    if d.otime.state = 4 then d
    else
      let d := chooseUpstream d
      if d.otime.upstream ≠ some l ∨ fld h 24 8 = 0 then d
      else
        let (n, d) := draw d
        let off := half (((fld h 32 8 : Int) - fld h 24 8) - ((t4.toNat : Int) - ttx)) (Config.number n)
        exchange d off

def execTimeTrainReceive (l : Nat) (header : List Byte) (t4 : Word) (replayed : Bool) (s : State) : Host.Outcome State Fault Refusal :=
  atLink l s fun d => timeReceive d l header t4 replayed

/-- TIME_ROLE is written: the package is the master, or a follower that looks for its upstream (R324, R327, R329).
Log entry 105, DEDUCED. -/
def roleApply (d : Dev) (v : Nat) : Dev :=
  let d := oset d 0x3050 1 v
  if v = 1 then otimeUpd d fun t => { t with state := 4, hops := 0, upstream := none, master := Config.serial, slew := 0, goodRun := 0, badRun := 0 }
  else if d.otime.state = 4 then chooseUpstream (otimeUpd d fun t => { t with state := 0, hops := 0xFFFF, upstream := none })
  else d

/-- Whether any link is ACTIVE. -/
def anyActive (d : Dev) : Bool := (List.range 19).any (linkActive d)

/-- The answer to TIME_SET, and what it does (R329). -/
def timeSetCheck (d : Dev) : Nat := if og d 0x3050 1 ≠ 1 ∨ anyActive d then 0x0105 else 0
def timeSetApply (d : Dev) (v : Nat) : Dev := otimeUpd d fun t => { t with count := BitVec.ofNat 64 v }

end Sys2Proof.Machine
end

