-- ==== Sys2Proof/Machine/Grafts.lean ====
section
/-! DEFINITION. Spares and grafting (R17, R107, R309, R310, R341, R342), RECOVERY, WF_ACK (R340). -/

namespace Sys2Proof.Machine

/-! ### Physical units

Numbered in increasing die, cluster, core, engine: cluster 10·die + i, core 9·cluster + i, engine 4·core + i. -/

def graftUpd (d : Dev) (f : Graft → Graft) : Dev := { d with graft := f d.graft }

/-- The physical cluster, core and engine that serve logical ones. -/
def physClusterNo (d : Dev) (cl : Nat) : Nat := 10 * (cl / 8) + physCluster d cl
def physCoreNo (d : Dev) (c : Nat) : Nat := 9 * physClusterNo d (c / 8) + physCore d c
def physEngineNo (d : Dev) (e : Nat) : Nat := 4 * physCoreNo d (e / 4) + e % 4

/-- Failed columns of a physical engine, in increasing number. -/
def failedColumns (g : Graft) (pe : Nat) : List Nat := (List.range 66).filter fun k => g.badColumns.contains (pe, k)

/-- The COLUMN_MAP entry of failed columns: 0x7F for none (R342). -/
def columnEntry (l : List Nat) : Nat := l.getD 0 0x7F + 128 * l.getD 1 0x7F

/-- COLUMN_MAP of the engines of a core follow the physical core that serves it. -/
def mapColumns (d : Dev) (c : Nat) : Dev :=
  (List.range 4).foldl (fun d i => graftUpd d fun g =>
    { g with columns := put 0x3FFF g.columns (4 * c + i) (columnEntry (failedColumns d.graft (physEngineNo d (4 * c + i)))) }) d

/-- Whether a physical core can serve. -/
def coreGood (g : Graft) (pc : Nat) : Bool :=
  !g.badCores.contains pc && (List.range 4).all fun i => decide ((failedColumns g (4 * pc + i)).length ≤ 2)

/-- The cores of a cluster are served by its physical cores: each by its own, or the spare where it failed; false when none is left. -/
def mapCores (d : Dev) (cl : Nat) : Dev × Bool :=
  let base := 9 * physClusterNo d cl
  (coresAt cl).foldl (fun (a : Dev × Bool) c =>
    let (d, ok) := a
    let used := (coresAt cl).filterMap fun e => if e < c then some (physCore d e) else none
    let pick := if coreGood d.graft (base + c % 8) then some (c % 8)
      else if coreGood d.graft (base + 8) ∧ used.contains 8 = false then some 8 else none
    match pick with
    | some p => (mapColumns (graftUpd d fun g => { g with cores := put (c % 8) g.cores c p }) c, ok)
    | none => (d, false)) (d, true)

/-- Whether a physical cluster can serve: it passed, and at most one of its cores failed (log entry 54, DEDUCED). -/
def clusterGood (g : Graft) (pcl : Nat) : Bool :=
  !g.badClusters.contains pcl && decide (((List.range 9).filter fun i => !coreGood g (9 * pcl + i)).length ≤ 1)

/-- Spare clusters of a die that no logical cluster uses. -/
def freeClusters (d : Dev) (die : Nat) : List Nat :=
  (List.range 10).filter fun p => clusterGood d.graft (10 * die + p) && (List.range 8).all fun i => decide (physCluster d (8 * die + i) ≠ p)

/-- The physical engines that no logical engine uses and that passed, whose light group has room for one more (R310, R341).
Log entry 111, DEDUCED. -/
def freeOptics (d : Dev) (leaving : Option Nat) : List Nat :=
  (List.range 20).filter fun p => !d.graft.badOptics.contains p && (List.range 16).all (fun i => decide (physOptic d i ≠ p)) &&
    decide (((List.range 16).filter fun i => decide (physOptic d i / 5 = p / 5) && decide (leaving ≠ some i)).length < 4)

/-- Fibres not in use whose power passed. -/
def freeFibres (d : Dev) : List Nat := (List.range 12).filter fun f => !d.graft.fibres.getLsbD f && !d.graft.badFibres.contains f

/-! ### Start-up (R310, R341) -/

/-- A fibre lies within its optical input limits (R419), in tenths of a dBm. -/
def fibreOk (p : Int) : Bool := decide (210 ≤ p) && decide (p ≤ 240)

/-- The two brightest fibres of a group within the limits, the lower number first on a tie (R310). -/
def brightest (powers : List Int) (g : Nat) : List Nat :=
  let ok := ((List.range 3).map fun i => 3 * g + i).filter fun f => fibreOk (powers.getD f 0)
  let top (l : List Nat) : Option Nat := l.foldl (fun b f => match b with
    | some b => if powers.getD b 0 < powers.getD f 0 then some f else some b
    | none => some f) none
  match top ok with
  | none => []
  | some a => match top (ok.filter fun f => decide (f ≠ a)) with
    | none => [a]
    | some b => [a, b]

/-- The inventory taken at start-up: units that failed self-test (R341). -/
def inventory (env : StartEnv) : Graft :=
  { clusters := [], cores := [], columns := [], optics := [],
    fibres := ((List.range 4).flatMap (brightest env.fibres)).foldl (fun s i => s ||| (1 <<< i)) 0,
    badClusters := env.clusters, badCores := env.cores, badColumns := env.columns, badOptics := env.optics,
    badFibres := (List.range 12).filter fun f => !fibreOk (env.fibres.getD f 0), retired := 0 }

/-- Serves one logical cluster at start-up: its own physical cluster, or the lowest spare. -/
def startCluster (a : Dev × Bool) (cl : Nat) : Dev × Bool :=
  let (d, ok) := a
  let own := cl % 8
  let used := (List.range cl).filterMap fun j => if j / 8 = cl / 8 then some (physCluster d j) else none
  let cands := [own, 8, 9].filter fun p => clusterGood d.graft (10 * (cl / 8) + p) && !used.contains p
  match cands with
  | [] => (d, false)
  | p :: _ =>
    let (d, fine) := mapCores (graftUpd d fun g => { g with clusters := put own g.clusters cl p }) cl
    (d, ok && fine)

/-- Serves one logical optical engine at start-up. -/
def startOptic (a : Dev × Bool) (e : Nat) : Dev × Bool :=
  let (d, ok) := a
  let own := 5 * (e / 4) + e % 4
  if !d.graft.badOptics.contains own then (d, ok)
  else match freeOptics d (some e) with
    | [] => (d, false)
    | p :: _ => (graftUpd d fun g => { g with optics := put own g.optics e p }, ok)

/-- The physical units that start-up has grafted out: each cluster, core and optical engine that another serves for, each failed column of an
engine in service, and each failed fibre (R341, R342). Log entry 153, DEDUCED. -/
def graftedOut (d : Dev) : Nat :=
  ((List.range 32).filter fun cl => decide (physCluster d cl ≠ cl % 8)).length +
    ((List.range 256).filter fun c => decide (physCore d c ≠ c % 8)).length +
    (List.range 1024).foldl (fun n e => n + (failedColumns d.graft (physEngineNo d e)).length) 0 +
    ((List.range 16).filter fun e => decide (physOptic d e ≠ 5 * (e / 4) + e % 4)).length + d.graft.badFibres.length

/-- Step 6 of R394: spares are grafted, and whether every logical unit is served. -/
def graftAll (d : Dev) (env : StartEnv) : Dev × Bool :=
  let d := { d with graft := inventory env }
  let a := (List.range 32).foldl startCluster (d, true)
  let a := (List.range 16).foldl startOptic a
  (graftUpd a.1 fun g => { g with retired := graftedOut a.1 }, a.2 && (List.range 4).all fun g => decide ((brightest env.fibres g).length = 2))

/-! ### GRAFT_REQ (R342) -/

/-- Fields of a graft request. -/
structure GraftReq where
  kind : Nat
  a : Nat
  b : Nat
  c : Nat
  e : Nat
  column : Nat
  deriving DecidableEq, Repr

def parseGraft (b : List Byte) : GraftReq := ⟨fld b 0 1, fld b 1 1, fld b 2 1, fld b 3 1, fld b 4 1, fld b 5 1⟩

def GraftReq.cluster (q : GraftReq) : Nat := 8 * q.a + q.b
def GraftReq.core (q : GraftReq) : Nat := 8 * q.cluster + q.c

/-- Whether the request names a unit (R342). -/
def graftValid (d : Dev) (q : GraftReq) : Bool :=
  let cl := decide (q.a < 4) && decide (q.b < 8)
  match q.kind with
  | 1 => cl && decide (q.c < 8) && decide (q.e < 4) && decide (q.column < 66) &&
      !d.graft.badColumns.contains (physEngineNo d (4 * q.core + q.e), q.column)
  | 2 => cl && decide (q.c < 8)
  | 3 => cl
  | 4 => decide (q.a < 16)
  | 5 => decide (q.a < 12) && d.graft.fibres.getLsbD q.a
  | _ => false

/-- The spare core of a logical cluster, when it is free and good. -/
def spareCore (d : Dev) (cl : Nat) : Option Nat :=
  (List.range 9).find? fun p => coreGood d.graft (9 * physClusterNo d cl + p) && (coresAt cl).all fun c => decide (physCore d c ≠ p)

/-- The spare that a graft would take; a column needs one only when it is its engine's third (R107). -/
def graftSpare (d : Dev) (q : GraftReq) : Bool :=
  match q.kind with
  | 1 => decide ((failedColumns d.graft (physEngineNo d (4 * q.core + q.e))).length < 2) || (spareCore d q.cluster).isSome
  | 2 => (spareCore d q.cluster).isSome
  | 3 => !(freeClusters d q.a).isEmpty
  | 4 => !(freeOptics d (some q.a)).isEmpty
  | _ => (freeFibres d).any fun f => decide (f / 3 = q.a / 3)

/-- The answer to GRAFT_REQ (R342, in the order of R370). Log entry 110, DEDUCED. -/
def graftCheck (d : Dev) (b : List Byte) : Nat :=
  let q := parseGraft b
  if !graftValid d q then 0x0201
  else if !graftSpare d q then 0x0303
  else if og d 0x2010 1 = 0 then 0x0302
  else if q.kind ≤ 3 ∧ (holder d q.cluster).isSome then 0x0302
  else if q.kind = 4 ∧ (linksOf q.a).any (linkActive d) then 0x0302
  else 0

/-- Grafts the spare core in place of a logical one; what it holds is zeroed (R341). -/
def graftCore (d : Dev) (c : Nat) : Dev :=
  match spareCore d (c / 8) with
  | none => d
  | some p =>
    let d := graftUpd d fun g => { g with badCores := physCoreNo d c :: g.badCores }
    mapColumns (coreSet (zeroRange (graftUpd d fun g => { g with cores := put (c % 8) g.cores c p }) (spKey c 0) 0x600000) c Core.reset) c

/-- Carries out a graft (R107, R341, R342). -/
def graftApply (d : Dev) (b : List Byte) : Dev :=
  let q := parseGraft b
  let d := graftUpd d fun g => { g with retired := g.retired + 1 }
  match q.kind with
  | 1 =>
    let pe := physEngineNo d (4 * q.core + q.e)
    let third := decide (2 ≤ (failedColumns d.graft pe).length)
    let d := graftUpd d fun g => { g with badColumns := (pe, q.column) :: g.badColumns }
    if third then graftCore d q.core else mapColumns d q.core
  | 2 => graftCore d q.core
  | 3 =>
    (match freeClusters d q.a with
    | [] => d
    | p :: _ =>
      let d := graftUpd d fun g => { g with badClusters := physClusterNo d q.cluster :: g.badClusters }
      let d := graftUpd d fun g => { g with clusters := put q.b g.clusters q.cluster p }
      let d := (mapCores d q.cluster).1
      clusterUpd (zeroCluster d q.cluster) q.cluster fun k => { k with zeroing := false, unassigned := false })
  | 4 =>
    (match freeOptics d (some q.a) with
    | [] => d
    | p :: _ =>
      let old := physOptic d q.a
      let d := (linksOf q.a).foldl (fun d l => if linkAlive d l then leaveActive d l .off else d) d
      let d := oset (oset d (0x3100 + old) 8 0) (0x3100 + p) 8 0
      let d := graftUpd d fun g => { g with badOptics := old :: g.badOptics, optics := put (5 * (q.a / 4) + q.a % 4) g.optics q.a p }
      (linksOf q.a).foldl newAttempt d)
  | _ =>
    (match (freeFibres d).find? fun f => decide (f / 3 = q.a / 3) with
    | none => d
    | some f => graftUpd d fun g =>
        { g with badFibres := q.a :: g.badFibres, fibres := (g.fibres &&& ~~~(1#12 <<< q.a)) ||| (1#12 <<< f) })

/-- SPARES_FREE and UNITS_RETIRED (R342). -/
def sparesFree (d : Dev) (sub : Nat) : Nat :=
  match sub with
  | 1 => (List.range 4).foldl (fun n die => n + (freeClusters d die).length) 0
  | 2 => ((List.range 32).filter fun cl => (spareCore d cl).isSome).length
  | 3 => (List.range 1024).foldl (fun n e => n + (2 - (failedColumns d.graft (physEngineNo d e)).length)) 0
  | 4 => ((List.range 20).filter fun p => !d.graft.badOptics.contains p && (List.range 16).all fun i => decide (physOptic d i ≠ p)).length
  | 5 => (freeFibres d).length
  | _ => min d.graft.retired 0xFFFF

/-! ### RECOVERY and WF_ACK -/

/-- Opening a recovery window is refused while a context other than ctx 0 is RUNNING or PREEMPTING (R342). -/
def recoveryCheck (d : Dev) (v : Nat) : Nat :=
  if 1 < v then 0x0201
  else if v = 1 ∧ (d.ctxs.any fun e => decide (e.1 ≠ 0) && (decide (e.2.state = .running) || decide (e.2.state = .preempting))) then 0x0302
  else 0

/-- Writing 0x01 releases FAULT_N, and AUX_SIG with it (R340, R375). -/
def wfAckCheck (v : Nat) : Nat := if v = 1 then 0 else 0x0201
def wfAckApply (d : Dev) : Dev := { d with faults := { d.faults with unack := false, unackPkg := false } }

end Sys2Proof.Machine
end

