-- ==== Sys2Proof/Machine/Power.lean ====
section
/-! DEFINITION. Clocks, temperatures, P-states, power states (R379 to R392, R418). -/

namespace Sys2Proof.Machine

def powerUpd (d : Dev) (f : Power → Power) : Dev := { d with power := f d.power }

/-! ### P-states (R382 to R384) -/

def throttleOf (d : Dev) (die : Nat) : Nat := look 0 d.power.throttle die

/-- The P-state that a die goes to: the slower of the requested and the throttle P-state (R383). -/
def targetP (d : Dev) (die : Nat) : Nat := max (og d 0x6020 (die + 1)) (throttleOf d die)

/-- A change of P-state begins where the target differs from the effective one. -/
def beginChange (d : Dev) (die : Nat) : Dev :=
  powerUpd d fun p => { p with changing := put false p.changing die (decide (targetP d die ≠ look 0 p.effective die)) }

/-- A write of P_REQUEST (R383, R384). -/
def pRequestApply (d : Dev) (sub v : Nat) : Dev := beginChange (oset d 0x6020 sub v) (sub - 1)

/-- A command at a compute die. -/
def atDie (die : Nat) (s : State) (go : Dev → Dev) : Host.Outcome State Fault Refusal :=
  if die < 4 then .next { s with dev := go s.dev } else .next s

/-- P_STATE_CHANGE_DONE: the die runs at its target (R383). -/
def changeDone (d : Dev) (die : Nat) : Dev :=
  if look false d.power.changing die then
    powerUpd d fun p => { p with effective := put 0 p.effective die (targetP d die), changing := put false p.changing die false }
  else d

def execPStateChangeDone (die : Nat) (s : State) : Host.Outcome State Fault Refusal := atDie die s fun d => changeDone d die

/-! ### Temperatures (R385 to R388) -/

/-- A stored temperature in 1/16 °C: I32. Log entry 14, DESIGN CHOICE. -/
def tempOf (d : Dev) (m : Nat) : Int := (BitVec.ofNat 32 (og d 0x6030 (m + 1))).toInt

/-- The coolest compute die. -/
def coolest (d : Dev) : Int := (List.range 4).foldl (fun t i => min t (tempOf d i)) (tempOf d 0)

/-- A limit of 0x6031 in 1/16 °C. -/
def limitOf (d : Dev) (sub : Nat) : Int := 16 * (og d 0x6031 sub : Int)

/-- The conditions of R386 for a die: 0 at or above DIE_THROTTLE, 1 more than SPREAD_LIMIT above the coolest; and either. -/
def hotBy (d : Dev) (die c : Nat) : Bool :=
  if c = 0 then decide (limitOf d 1 ≤ tempOf d die) else decide (limitOf d 5 < tempOf d die - coolest d)
def tooHot (d : Dev) (die : Nat) : Bool := hotBy d die 0 || hotBy d die 1

/-- The trip limit of a monitor (R388). -/
def tripLimit (d : Dev) (m : Nat) : Int := if m < 5 then limitOf d 3 else limitOf d 4

/-- PATH of a monitor (R332, R380). -/
def monitorPath (d : Dev) (m : Nat) : Nat :=
  if m < 4 then diePath d m 18 else if m = 4 then hubPath d 31 31 18 else pathOf d 5 ((m - 5) * 2 ^ 12 + 28)

/-- One step slower, none beyond P2; it is counted (R386). -/
def slower (d : Dev) (die : Nat) : Dev :=
  if throttleOf d die < 2 then
    let d := powerUpd d fun p => { p with throttle := put 0 p.throttle die (throttleOf d die + 1) }
    beginChange (obump d 32 0x6022 (die + 1) 1) die
  else d

/-- Every compute die goes to throttle P-state P2 (R388). -/
def allSlow (d : Dev) : Dev := (List.range 4).foldl (fun d die => slower (slower d die) die) d

/-- A monitor's samples in a row out of range: the second one raises its windfall (R330). -/
def runOf (t : Table Nat) (m : Nat) (out : Bool) : Nat := if out then min 2 (look 0 t m + 1) else 0

/-- What a sample shows of one temperature monitor. Log entry 108, DEDUCED. -/
def tripSample (d : Dev) (m : Nat) : Dev :=
  let n := runOf d.power.tripRun m (decide (tripLimit d m ≤ tempOf d m))
  let first := decide (n = 2) && decide (look 0 d.power.tripRun m ≠ 2)
  let d := powerUpd d fun p => { p with tripRun := put 0 p.tripRun m n }
  if first then
    let d := windfall (allSlow (wakeBy d 7)) 0x0040 sPackage 0xFF (monitorPath d m)
    { d with faults := { d.faults with thermLow := true } }
  else d

/-- What a sample shows of one supply; P-states stay (R388). -/
def supplySample (d : Dev) (m : Nat) (ok : Bool) : Dev :=
  let n := runOf d.power.supplyRun m (!ok)
  let first := decide (n = 2) && decide (look 0 d.power.supplyRun m ≠ 2)
  let d := powerUpd d fun p => { p with supplyRun := put 0 p.supplyRun m n }
  if first then windfall (wakeBy d 7) 0x0041 sPackage 0xFF (monitorPath d m) else d

/-- What a sample shows of the throttle conditions of one die: each holds at its own second sample in a row (R386). -/
def hotSample (d : Dev) (die : Nat) : Dev :=
  let twice (c : Nat) : Bool := hotBy d die c && look false d.power.hotOnce (2 * die + c)
  let holds := twice 0 || twice 1
  powerUpd d fun p => { p with
    holding := put false p.holding die holds,
    hotOnce := put false (put false p.hotOnce (2 * die) (hotBy d die 0)) (2 * die + 1) (hotBy d die 1) }

/-- What a sample shows of one stack: slowed at HBM_THROTTLE, until 500 samples (10 ms) in a row lie 5 K below it (R387). -/
def stackSample (d : Dev) (i : Nat) : Dev :=
  let t := tempOf d (i + 5)
  let left := look 0 d.power.hbmSlow i
  let n := if limitOf d 2 ≤ t then 500 else if left = 0 then 0 else if t ≤ limitOf d 2 - 80 then left - 1 else 500
  powerUpd d fun p => { p with hbmSlow := put 0 p.hbmSlow i n }

/-- MONITOR_SAMPLE (R330, R385 to R388). -/
def monitorSample (d : Dev) (temps : List Int) (supplies : List Bool) : Dev :=
  let d := (List.range 13).foldl (fun d m => oset d 0x6030 (m + 1) (BitVec.ofInt 32 (temps.getD m 0)).toNat) d
  let d := (List.range 13).foldl tripSample d
  let d := (List.range 5).foldl (fun d m => supplySample d m (supplies.getD m true)) d
  let d := (List.range 8).foldl stackSample ((List.range 4).foldl hotSample d)
  if (List.range 13).any fun m => decide (tripLimit d m ≤ tempOf d m) then d
  else { d with faults := { d.faults with thermLow := false } }

def execMonitorSample (temps : List Int) (supplies : List Bool) (s : State) : Host.Outcome State Fault Refusal :=
  .next { s with dev := monitorSample s.dev temps supplies }

/-- THROTTLE_STEP: a condition holds, or has held for another 1 ms (R386). -/
def execThrottleStep (die : Nat) (s : State) : Host.Outcome State Fault Refusal :=
  atDie die s fun d => if look false d.power.holding die then slower d die else d

/-- The third row of R386. -/
def mayRecover (d : Dev) (die : Nat) : Bool :=
  !tooHot d die && decide (tempOf d die ≤ limitOf d 1 - 80) && decide (tempOf d die - coolest d ≤ 400) && decide (0 < throttleOf d die)

/-- THROTTLE_RECOVER: 10 ms clear of both conditions (R386). -/
def execThrottleRecover (die : Nat) (s : State) : Host.Outcome State Fault Refusal :=
  atDie die s fun d =>
    if mayRecover d die then
      beginChange (powerUpd d fun p => { p with throttle := put 0 p.throttle die (throttleOf d die - 1) }) die
    else d

/-- PLL_LOCK_LOSS: VOLTAGE_FAULT with the monitor of the die, or of the hub (R380). -/
def execPllLockLoss (die : Nat) (s : State) : Host.Outcome State Fault Refusal :=
  if die < 5 then .next { s with dev := windfall (wakeBy s.dev 7) 0x0041 sPackage 0xFF (monitorPath s.dev die) } else .next s

/-! ### Power states (R389 to R392) -/

/-- Whether a context state bars idleness. -/
def busyState : CState → Bool
  | .running => true
  | .preempting => true
  | .restoring => true
  | .reclaiming => true
  | .scrubbing => true
  | _ => false

/-- Whether the package is idle (R389). -/
def isIdle (d : Dev) : Bool :=
  (d.ctxs.all fun e => !busyState e.2.state && decide (e.2.load.state ≠ 1)) &&
    (d.clusters.all fun e => e.2.dma.all fun s => s.2.isNone) && d.mgmt.segs.isEmpty &&
    (d.host.sqs.all fun e => decide (e.2.tail = e.2.head) && e.2.cqWait.isEmpty && e.2.fqWait.isEmpty) && !d.host.busy

/-- The further condition of a state (R389). Log entry 106, DEDUCED. -/
def stateEntry (d : Dev) (level : Nat) : Bool :=
  match level with
  | 3 => ((List.range 64).all fun x => !holdsAny d x) && d.tallies.all fun e => !(decide (32768 ≤ e.1) && decide (e.1 < 33024) && e.2.inuse)
  | 4 => (d.ctxs.all fun e => decide (e.1 = 0) || decide (e.2.state = .free)) && decide (og d 0x3000 1 = 0)
  | _ => true

/-- Wake time in microseconds (R389). -/
def wakeTime (level : Nat) : Nat := [0, 2, 150, 15000, 1500000].getD level 0

/-- Whether a state is allowed by LATENCY_TOL, STATE_CAP and CTX_LIMIT (R390). -/
def stateAllowed (d : Dev) (level : Nat) : Bool :=
  decide (wakeTime level ≤ og d 0x6010 0) && decide (level ≤ og d 0x6000 2) &&
    d.ctxs.all fun e => decide (e.2.state = .free) || decide (level ≤ og d 0x6011 (e.1 + 1))

/-- POWER_STATE_ENTRY: a dwell ends and the entry into the state begins (R390). Log entry 129, DEDUCED. -/
def stateBegin (d : Dev) (level : Nat) : Dev :=
  if 1 ≤ level ∧ level ≤ 4 ∧ sleep d < level ∧ d.power.waking = false ∧ og d 0x1000 7 = 1 ∧ isIdle d ∧ stateEntry d level ∧
      stateAllowed d level then
    powerUpd d fun p => { p with entering := some level }
  else d

def execPowerStateEntry (level : Nat) (s : State) : Host.Outcome State Fault Refusal := .next { s with dev := stateBegin s.dev level }

/-- The state of the compute dies is lost: cores, clusters, tallies of the dies, SRAM (R389). -/
def diesOff (d : Dev) : Dev :=
  { d with
    cores := [], clusters := [], tallies := d.tallies.filter fun e => decide (33024 ≤ e.1), inflight := [],
    mem := d.mem.filter fun e => decide (2 ^ 40 ≤ e.1), poison := d.poison.filter fun e => decide (2 ^ 37 ≤ e.1),
    upset := d.upset.filter fun e => decide (2 ^ 37 ≤ e.1) }

/-- The state of everything that S4 turns off is lost: compute dies, HBM with all mappings, contexts, links, orchard time, flags of
arbiters (R168, R389, R391). The tier's expanders and host memory stand outside. Log entry 113, DEDUCED. -/
def dataOff (d : Dev) : Dev :=
  let d := diesOff d
  let d := (List.range 32).foldl (fun d i => oset d 0x7021 (i + 1) 0) d
  let d := oset (oset (oset d 0x3000 5 0) 0x3000 6 0) 0x3000 7 0
  let master := decide (og d 0x3050 1 = 1)
  { d with
    tallies := [], mem := d.mem.filter fun e => decide (2 ^ 44 ≤ e.1), poison := d.poison.filter fun e => decide (2 ^ 41 ≤ e.1),
    upset := d.upset.filter fun e => decide (2 ^ 41 ≤ e.1),
    vm := ⟨[], [], [], d.vm.tierFrames⟩, ctxs := [], ports := [], links := [], routes := [],
    otime := if master then { OTime.reset with state := 4, hops := 0, master := Config.serial } else OTime.reset,
    arb := ⟨[]⟩,
    power := { d.power with
      effective := [], throttle := [], changing := [], hotOnce := [], holding := [], tripRun := [], supplyRun := [], hbmSlow := [] } }

/-- POWER_STATE_ENTRY_COMPLETE: POWER_STATE reads the new state, and what it turns off is lost (R389, R390). -/
def stateComplete (d : Dev) : Dev :=
  match d.power.entering with
  | none => d
  | some l =>
    if d.power.waking then d
    else
      let d := powerUpd d fun p => { p with state := l, entering := none }
      if l = 3 then diesOff d else if l = 4 then dataOff d else d

def execPowerStateEntryComplete (s : State) : Host.Outcome State Fault Refusal := .next { s with dev := stateComplete s.dev }

/-- The routing table at start-up: the own index, and the punnet partners on their ports (R314, R322). -/
def startRoutes (d : Dev) : Table Half :=
  let own := ownIndex d
  (List.range 8).foldl (fun t j =>
    let i := own / 8 * 8 + j
    let code := 3 + (j + 8 - own % 8 - 1) % 8
    put 0x00FF t i (if i = own then 0 else BitVec.ofNat 16 (17 * code))) []

/-- Ctx 0 is created with CLUSTER_MASK 0 and without quota limits (R264). -/
def createCtx0 (d : Dev) : Dev :=
  let d := cobjSet d 0 2 0
  createCtx ([3, 4, 5].foldl (fun d sub => cobjSet d 0 sub 0xFFFFFFFF) d) 0

/-- Start-up steps 7 and 8: every link begins an attempt, and ctx 0 is created (R264, R311, R394). -/
def startLinks (d : Dev) : Dev :=
  let d := (List.range 19).foldl newAttempt { d with routes := startRoutes d }
  createCtx0 d

/-! ### DIE_SHUTDOWN (R418) -/

/-- Drops the entries of a table whose keys lie from `lo` for `n`. -/
def withoutDie {α : Type} (t : Table α) (lo n : Nat) : Table α := t.filter fun e => decide (e.1 < lo ∨ lo + n ≤ e.1)

/-- A compute die at 120 °C turns its converters off, and its state is lost; the hub's links, ports, slots and orchard time are the hub's
(R418). -/
def dieShutdown (d : Dev) (die : Nat) : Dev :=
  let d := { d with faults := { d.faults with thermLow := true } }
  if die < 4 then
    let d := zeroRange (zeroRange d (spKey (64 * die) 0) (64 * 2 ^ 23)) (shKey (8 * die) 0) (8 * 2 ^ 24)
    { d with
      cores := withoutDie d.cores (64 * die) 64, clusters := withoutDie d.clusters (8 * die) 8,
      tallies := withoutDie (withoutDie d.tallies (8192 * die) 8192) (32768 + 64 * die) 64 }
  else
    { d with tallies := d.tallies.filter fun e => decide (e.1 < 33024), inflight := [], ports := [], links := [], otime := OTime.reset }

def execDieShutdown (die : Nat) (s : State) : Host.Outcome State Fault Refusal :=
  if die < 5 then .next { s with dev := dieShutdown s.dev die } else .next s

end Sys2Proof.Machine
end

