-- ==== Sys2Proof/Machine/StartUp.lean ====
section
/-! DEFINITION. Start-up and supplies (R393 to R396, R413): firmware, stored defaults, self-test, grafts, READY or FAILED. -/

namespace Sys2Proof.Machine

/-- Frames of 2 MiB in the 4 TB that the tier port serves at most (R20). -/
def tierLimit : Nat := 1907348

def mgmtUpd (d : Dev) (f : Mgmt → Mgmt) : Dev := { d with mgmt := f d.mgmt }

/-- Start-up stops at step `n`: PKG_STATE reads FAILED (R395, R396). -/
def startFail (d : Dev) (env : StartEnv) (n : Nat) : Dev :=
  oset (oset (oset d 0x1000 7 2) 0x603F 1 (n + 0x20)) 0x603F 2 env.ms.toNat

/-- Journals an entry (R376, R377). -/
def journal (d : Dev) (mac : BitVec 48) (kind sub idx status len old new : Nat) : Dev :=
  let seq := (og d 0xA000 1 + 1) % 2 ^ 32
  let e : JEntry := ⟨d.otime.count, mac, kind, sub, idx, status, len, BitVec.ofNat 64 old, BitVec.ofNat 64 new, seq⟩
  let (l, lost) := logPush 4096 d.mgmt.journal [e]
  let d := obump (oset d 0xA000 1 seq) 32 0xA000 2 lost
  mgmtUpd d fun m => { m with journal := l }

/-- A device adjustment of a stored default, journalled with KIND 2. -/
def adjust (d : Dev) (idx sub v : Nat) : Dev := oset (journal d 0 2 sub idx 0 1 (og d idx sub) v) idx sub v

/-- The stored defaults replace the defaults, and their conflicts are adjusted (R153, R374, R375). -/
def loadStored (d : Dev) : Dev :=
  match d.mgmt.stored with
  | none => d
  | some t =>
    let d := t.foldl (fun d e => oset d (e.1 / 256) (e.1 % 256) e.2) (oset d 0x1100 10 1)
    let d := (List.range 32).foldl (fun d cl =>
      if og d 0x4010 (cl + 1) = 2 ∧ og d 0x4011 (cl + 1) = 1 then adjust d 0x4010 (cl + 1) 1 else d) d
    if og d 0x6040 1 = 1 ∧ og d 0x6040 2 = 1 then adjust d 0x6040 1 0 else d

/-- Step 2: the firmware image that verifies runs, stored defaults are read, and both doors answer (R393, R394). -/
def stepTwo (d : Dev) (env : StartEnv) : Dev × Bool :=
  let d := oset d 0x1100 1 env.straps.toNat
  let run (n : Nat) : Dev × Bool :=
    let d := loadStored (oset d 0x1000 6 (Config.fwVersion n).toNat)
    let d := shadowKeys.foldl (fun d k => { d with live := put (objDefault k) d.live k (look (objDefault k) d.obj k) }) d
    (hostSet d fun h => { h with answers := h.linkUp }, true)
  if d.mgmt.slot0 && env.fw0 then run 0
  else if d.mgmt.slot1 && env.fw1 then run 1
  else (startFail d env 2, false)

/-- Steps 3 to 8 (R394, R395). Log entry 109, DEDUCED. -/
def stepsOn (d : Dev) (env : StartEnv) : Dev :=
  if !env.pll then startFail d env 3
  else if !env.hbm then startFail d env 4
  else
    let d := (List.range 4).foldl beginChange { d with vm := { d.vm with tierFrames := min env.tierFrames tierLimit } }
    let (d, ok) := graftAll d env
    if !ok then startFail (windfall d 0x0050 sNone 0xFF (hubPath d 31 31 25)) env 6
    else
      let d := startLinks d
      oset (oset (oset d 0x1000 7 1) 0x603F 1 (8 + 0x10)) 0x603F 2 env.ms.toNat

/-- WAKE_COMPLETE: the package is in S0, and window accesses held meanwhile are served; a wake from S4 runs start-up steps 3 to 8, and what
they find is free (R391, R394; log entry 154, DESIGN CHOICE; log entry 107, DEDUCED). -/
def wakeComplete (d : Dev) : Dev :=
  if d.power.waking then
    let deep := decide (d.power.state = 4)
    let d := powerUpd d fun p => { p with state := 0, entering := none, waking := false }
    winResume (if deep then let (n, d) := draw d; stepsOn d (Config.wakeEnv n) else d)
  else d

def execWakeComplete (s : State) : Host.Outcome State Fault Refusal := .next { s with dev := wakeComplete s.dev }

/-- Waits in step 3 for VIN48. -/
def waitThree (d : Dev) : Dev := oset (oset (oset d 0x1000 7 0) 0x603F 1 3) 0x603F 2 0

/-- Start-up from step 2, as far as the supplies allow. -/
def startTwo (d : Dev) (env : StartEnv) : Dev :=
  let (d, ok) := stepTwo d env
  if !ok then d else if d.power.vin then stepsOn d env else waitThree d

/-- POWER_UP: both supplies are present (R394). Log entry 114, DEDUCED. -/
def execPowerUp (env : StartEnv) (s : State) : Host.Outcome State Fault Refusal :=
  .next { s with dev :=
    if s.dev.power.vin || s.dev.power.vaux then s.dev
    else startTwo (powerUpd s.dev fun p => { p with vin := true, vaux := true }) env }

/-- Whether neither firmware image verified: the package stays FAILED (R393). Log entry 120, DEDUCED. -/
def romOnly (d : Dev) : Bool := decide (og d 0x603F 1 = 2 + 0x20)

/-- VIN48_DIP (R413). -/
def execVin48Dip (s : State) : Host.Outcome State Fault Refusal :=
  .next { s with dev :=
    if s.dev.power.vin && decide (og s.dev 0x1000 7 = 1) then windfall (wakeBy s.dev 7) 0x0041 sPackage 0xFF (pathOf s.dev 7 29) else s.dev }

/-- VIN48_LOSS: the data path loses power, and start-up waits in step 3 (R413). -/
def vinLoss (d : Dev) : Dev :=
  if d.power.vin then
    let d := powerUpd d fun p => { p with vin := false, state := 0, entering := none, waking := false }
    if d.power.vaux then
      let d := hostSet (dataOff d) fun h => { h with sqs := [], held := [] }
      if romOnly d then d else waitThree d
    else d
  else d

def execVin48Loss (s : State) : Host.Outcome State Fault Refusal := .next { s with dev := vinLoss s.dev }

/-- VIN48_RESTORED: start-up resumes at step 3 (R413). -/
def execVin48Restored (env : StartEnv) (s : State) : Host.Outcome State Fault Refusal :=
  .next { s with dev :=
    if s.dev.power.vin then s.dev
    else
      let d := powerUpd s.dev fun p => { p with vin := true }
      if d.power.vaux && !romOnly d then stepsOn d env else d }

/-- VAUX12_LOSS: all state outside the meter is lost; flash, the PERST_N land, and memory outside the package stay (R413). -/
def vauxLoss (d : Dev) : Dev :=
  if d.power.vaux then
    { Dev.reset with
      free := d.free, out := d.out, mem := d.mem.filter fun e => decide (2 ^ 44 ≤ e.1), poison := d.poison.filter fun e => decide (2 ^ 41 ≤ e.1),
      upset := d.upset.filter fun e => decide (2 ^ 41 ≤ e.1), host := { HostIf.reset with linkUp := d.host.linkUp },
      mgmt := { Dev.reset.mgmt with stored := d.mgmt.stored, asset := d.mgmt.asset, slot0 := d.mgmt.slot0, slot1 := d.mgmt.slot1 },
      power := { Dev.reset.power with vin := d.power.vin } }
  else d

def execVaux12Loss (s : State) : Host.Outcome State Fault Refusal := .next { s with dev := vauxLoss s.dev }

/-- VAUX12_RESTORED: start-up runs again from step 2 (R413). -/
def execVaux12Restored (env : StartEnv) (s : State) : Host.Outcome State Fault Refusal :=
  .next { s with dev :=
    if s.dev.power.vaux then s.dev else startTwo (powerUpd s.dev fun p => { p with vaux := true }) env }

end Sys2Proof.Machine
end

