-- ==== Sys2Proof/Machine/Metrology.lean ====
section
/-! DEFINITION. The meter die and what it sends (R397 to R409). -/

namespace Sys2Proof.Machine

/-! ### The meter -/

/-- A log entry of the meter (R406). -/
def meterEntry (time code data : Nat) : BitVec 128 := BitVec.ofNat 128 (time % 2 ^ 64 + code * 2 ^ 64 + data % 2 ^ 32 * 2 ^ 96)

/-- Meter time in whole ticks. -/
def meterTicks (m : Meter) : Nat := m.time / 1000

/-- Logs an entry; the log keeps its 1,024 newest (R406). -/
def meterLog (m : Meter) (code data : Nat) : Meter :=
  { m with log := (logPush 1024 m.log [meterEntry (meterTicks m) code data]).1, logTotal := m.logTotal + 1 }

/-- The seal breaks: 1 ROM, 2 calibration (R407). -/
def breakSeal (m : Meter) (why : Nat) : Meter := { meterLog m 0x0020 why with broken := true }

/-- A CRC that differs from its fused value is logged, and the seal breaks (R407). -/
def checkRom (m : Meter) : Meter := if m.romCrc = Config.romCrcFused then m else breakSeal (meterLog m 0x0012 m.romCrc.toNat) 1
def checkCal (m : Meter) : Meter := if m.calCrc = Config.calCrcFused then m else breakSeal (meterLog m 0x0011 m.calCrc.toNat) 2

/-- Drives MTR_PULSE low for the next pulse that is due (R400). -/
def nextPulse (m : Meter) : Meter :=
  if m.running ∧ m.pulseLow = false ∧ 0 < m.pulsesDue then { m with pulseLow := true, pulsesDue := m.pulsesDue - 1 } else m

/-- METER_START (R401). An entry torn by a loss of power was never in the log (R406; log entry 55, DEDUCED). -/
def meterStart (m : Meter) : Meter :=
  if m.running then m
  else
    let m := { m with
      running := true, romCrc := Config.romCrcNow m.logTotal, calCrc := Config.calCrcNow m.logTotal, status := 0, spanUj := 0, samples := 0 }
    let m := checkCal (checkRom m)
    nextPulse (meterLog (meterLog m 0x0001 m.energy) 0x0010 m.calCrc.toNat)

def execMeterStart (_torn : Bool) (s : State) : Host.Outcome State Fault Refusal := .next { s with meter := meterStart s.meter }

/-- A METER_STATUS bit begins or ends, with its log entry (R405, R406). -/
def statusBit (m : Meter) (i : Nat) (now : Bool) (begins : Nat) : Meter :=
  if bit m.status i = now then m
  else if now then { meterLog m begins 0 with status := m.status ||| 2 ^ i }
  else { meterLog m (begins + 1) 0 with status := m.status ^^^ 2 ^ i }

/-- METER_SAMPLE: the energy of 125 µs is added; pulses fall due at multiples of 3,600,000 mJ (R398 to R400). Below 34 V the meter does
not sample (R401). -/
def meterSample (m : Meter) (uj mv ma : Nat) (timeBase : Bool) : Meter :=
  if m.running ∧ 34000 ≤ mv then
    let sum := m.remainder + uj
    let e := m.energy + sum / 1000
    let m := { m with
      energy := e, remainder := sum % 1000, time := m.time + 4096, spanUj := m.spanUj + uj, samples := m.samples + 1, mv := mv,
      pulsesDue := m.pulsesDue + (e / 3600000 - m.energy / 3600000) }
    let m := statusBit m 0 timeBase 0x0030
    let m := statusBit m 1 (decide (2100000000 < mv * ma)) 0x0003
    nextPulse (statusBit m 2 (decide (mv < 40000)) 0x0005)
  else m

def execMeterSample (uj mv ma : Nat) (timeBase : Bool) (s : State) : Host.Outcome State Fault Refusal :=
  .next { s with meter := meterSample s.meter uj mv ma timeBase }

/-- MTR_PULSE_END: 30 ms are over; a pulse that fell due meanwhile follows (R400). -/
def execMtrPulseEnd (s : State) : Host.Outcome State Fault Refusal :=
  .next { s with meter := nextPulse { s.meter with pulseLow := false } }

/-- METER_POWER_DOWN: sampling stops, and the register, remainder and time are kept (R401). -/
def execMeterPowerDown (s : State) : Host.Outcome State Fault Refusal :=
  .next { s with meter := if s.meter.running then { meterLog s.meter 0x0002 s.meter.energy with running := false } else s.meter }

/-! ### The one-way link (R402, R403, R409) -/

/-- SEAL_STATE. -/
def sealState (m : Meter) : Nat := if m.broken then 2 else 1

/-- Mean power in mW over the samples since the last record (R405). -/
def meanPower (m : Meter) : Nat := if m.samples = 0 then 0 else m.spanUj * 8 / m.samples

/-- Adds attributed energy to a context. -/
def addEnergy (d : Dev) (x n : Nat) : Dev := oset d 0x6038 (x + 1) (og d 0x6038 (x + 1) + n)

/-- Divides the energy of one record among the contexts, and estimates the items of R22 (R409). Log entry 21, DESIGN CHOICE. -/
def attribute_ (d : Dev) (de : Nat) : Dev :=
  let (n, d) := draw d
  let e (x : Nat) : Nat := Config.activity n x
  let sum := (List.range 64).foldl (fun s x => s + e x) 0
  let share (x : Nat) : Nat := if sum ≤ de then e x else e x * de / sum
  let given := (List.range 64).foldl (fun s x => s + share x) 0
  let d := (List.range 64).foldl (fun d x => addEnergy d x (share x)) d
  let d := addEnergy d 0 (de - given)
  (List.range 8).foldl (fun d i => oset d 0x6039 (i + 1) (og d 0x6039 (i + 1) + Config.activity n (64 + i))) d

/-- The management controller takes a status record; one that finds it without firmware is lost. -/
def takeRecord (d : Dev) (m : Meter) : Dev :=
  if d.power.vaux && bootDone d then
    let last := d.mgmt.lastEnergy.getD m.energy
    let d := mgmtUpd d fun g => { g with
      meterSilent := false, lastEnergy := some m.energy, record := (m.energy, meanPower m, meterTicks m, m.mv, m.status, sealState m) }
    attribute_ d (m.energy - last)
  else d

/-- STATUS_RECORD: every 100 ms while the meter runs (R402, R409). -/
def execStatusRecord (s : State) : Host.Outcome State Fault Refusal :=
  .next (if s.meter.running then { s with dev := takeRecord s.dev s.meter, meter := { s.meter with spanUj := 0, samples := 0 } } else s)

/-- Whether an object is SEALED. -/
def isSealed (idx sub : Nat) : Bool := match objEntry idx sub with | some (.sealed, _) => true | _ => false

/-- METER_READ_REQUEST: a request of a SEALED object is answered and changes nothing; anything else is counted in LINK_REJECTED (R402). -/
def execMeterReadRequest (index sub _off : Nat) (s : State) : Host.Outcome State Fault Refusal :=
  .next (if s.meter.running ∧ isSealed index sub = false then
    { s with meter := { s.meter with rejected := if s.meter.rejected = 0xFFFFFFFF then s.meter.rejected else s.meter.rejected + 1 } } else s)

/-- STATUS_RECORD_TIMEOUT: no record for 1 s (R403). -/
def execStatusRecordTimeout (s : State) : Host.Outcome State Fault Refusal :=
  .next { s with dev := mgmtUpd s.dev fun g => { g with meterSilent := true } }

/-- A string as bytes. -/
def strBytes (t : String) : List Byte := t.toList.map fun c => BitVec.ofNat 8 c.toNat

/-- The value of a SEALED object (R404 to R406); those of 0x9010 come from the last status record. -/
def sealedValue (d : Dev) (m : Meter) (idx sub : Nat) : List Byte :=
  let r := d.mgmt.record
  if idx = 0x9000 then (match sub with
    | 1 => toLE 8 Config.meterSerial.toNat
    | 2 => strBytes "DBM-B1 1.00"
    | 3 => toLE 4 m.romCrc.toNat
    | 4 => toLE 4 Config.calId.toNat
    | 5 => toLE 4 m.calCrc.toNat
    | 6 => toLE 1 (sealState m)
    | 7 => toLE 4 1000
    | 8 => Config.typeRef.take 32
    | _ => toLE 4 m.rejected.toNat)
  else if idx = 0x9010 then (match sub with
    | 1 => toLE 8 r.1
    | 2 => toLE 4 r.2.1
    | 3 => toLE 8 r.2.2.1
    | 4 => toLE 4 r.2.2.2.1
    | _ => toLE 1 r.2.2.2.2.1)
  else if sub = 1 then toLE 4 m.logTotal
  else
    let b := m.log.flatMap fun e => toLE 16 e.toNat
    b ++ zeros (16384 - b.length)

end Sys2Proof.Machine
end

