-- ==== Sys2Proof/Machine/TallyOps.lean ====
section
/-! DEFINITION. The tally operations of R225 and the messages between tally nodes (R226 to R239). -/

namespace Sys2Proof.Machine

/-- The count n, IMM[23:0] (R225). -/
def tallyN (f : Fields) : BitVec 24 := f.imm.extractLsb' 0 24

/-- The tally that xs1 names for SIGNAL, WAIT, DEC and ARRIVE, none where R229 refuses it with BAD_ADDRESS. -/
def namedTally (d : Dev) (x : Nat) (v : Word) : Option Nat :=
  let key := v.toNat % 32768
  if v.toNat < 65536 && bit (maskOf d x) (key / 1024) && (tallyOf d key).inuse then some key else none

/-- Retires if the run still stands after an effect that may have ended it (R214). -/
def retireIf (d : Dev) (c : Nat) (i : Inst) : Dev := if runs d i.ctx i.task c then retireDev d c else d

/-- An operation of an instruction on a tally: retired once it is sent or performed (R230, R234). Log entry 67, DEDUCED. -/
def tallyInstr (d : Dev) (c : Nat) (i : Inst) (key : Nat) (op : TallyOp) : Dev :=
  retireIf (tallyFrom d (clOf c) key ⟨clusterRef key, op, .instruction i.ctx i.task c (coreOf d c).pc, i.ctx, 0⟩) c i

/-- SIGNAL (R226, R229). -/
def execSignal (c : Nat) (f : Fields) (s : State) : Host.Outcome State Fault Refusal :=
  onCoreDrained c s fun d k i =>
    if immSelect f ≠ 0 then badInstruction d c
    else match namedTally d i.ctx (getX k f.rs1) with
      | none => badAddress d c
      | some key =>
        if (tallyOf d key).barrier && decide (tallyN f ≠ 0) then badInstruction d c
        else tallyInstr d c i key (.signal (tallyN f))

/-- The meaning of DEC when IMM[31:24] is 0 (R226, R229). -/
def decInstr (d : Dev) (c : Nat) (f : Fields) (k : Core) (i : Inst) : Dev :=
  match namedTally d i.ctx (getX k f.rs1) with
  | none => badAddress d c
  | some key =>
    if (tallyOf d key).barrier && decide (tallyN f ≠ 0) then badInstruction d c
    else tallyInstr d c i key (.decr (tallyN f))

/-- OP 0x24 by its selector (R225): the word of another operation is that operation's command; an unlisted selector is
BAD_INSTRUCTION. -/
def onControl (want : Nat) (c : Nat) (f : Fields) (s : State) (go : Dev → Core → Inst → Dev) : Host.Outcome State Fault Refusal :=
  if (immSelect f).toNat = want then onCore c s go
  else if (immSelect f).toNat < 4 then .refused .otherInstruction
  else onCore c s fun d _ _ => badInstruction d c

def execDec (c : Nat) (f : Fields) (s : State) : Host.Outcome State Fault Refusal := onControl 0 c f s fun d k i => decInstr d c f k i

/-- WAIT (R226, R227, R232, R233). -/
def execWait (c : Nat) (f : Fields) (s : State) : Host.Outcome State Fault Refusal :=
  onCore c s fun d k i =>
    if immSelect f ≠ 0 then badInstruction d c
    else match namedTally d i.ctx (getX k f.rs1) with
      | none => badAddress d c
      | some key =>
        let y := tallyOf d key
        let join (g : Option (BitVec 8)) : Dev :=
          coreUpd (tallySet d key { y with line := y.line ++ [(.core c, tallyN f, g)] }) c fun k => { k with status := .waiting }
        if y.barrier then
          let target := match k.latch with
            | some (t, g) => if t = key then g else y.gen
            | none => y.gen
          if y.gen ≠ target then retire d c { k with latch := none } else join (some target)
        else if tallyN f = 0 then retireDev d c
        else if y.line.isEmpty && decide (tallyN f ≤ y.count) then
          retireDev (tallySet d key { y with count := y.count - tallyN f }) c
        else join none

/-- ARRIVE: the latch takes the tally and its GEN before the arrival counts (R227). -/
def execArrive (c : Nat) (f : Fields) (s : State) : Host.Outcome State Fault Refusal :=
  onCoreDrained c s fun d k i =>
    if immSelect f ≠ 0 then badInstruction d c
    else match namedTally d i.ctx (getX k f.rs1) with
      | none => badAddress d c
      | some key =>
        let y := tallyOf d key
        if !y.barrier then badInstruction d c
        else tallyInstr (coreSet d c { k with latch := some (key, y.gen) }) c i key .arrive

/-! ### Control operations -/

/-- Whether a context may hold `n` more tallies (R239). -/
def tallyQuota (d : Dev) (x n : Nat) : Bool :=
  decide (cobj d x 5 = 0xFFFFFFFF) || decide (talliesInUse d x + n ≤ cobj d x 5)

/-- Whether a node is held by another context (R237, R239). -/
def heldByOther (d : Dev) (x k : Nat) : Bool := (tallyOf d k).inuse && decide ((tallyOf d k).owner ≠ x)

/-- Whether a cluster tally lies outside the context's clusters (R237). -/
def outsideMask (d : Dev) (x k : Nat) : Bool := decide (k < 32768) && !bit (maskOf d x) (k / 1024)

/-- The status of TSETC (R237, R239). -/
def tsetcStatus (d : Dev) (x : Nat) (r : Word) : Nat :=
  match nodeKey r with
  | none => 0x0201
  | some k =>
    let y := tallyOf d k
    if refLevel r ≠ 1 ∨ outsideMask d x k then 0x0201
    else if y.inuse then (if tallyBusy y then 0x0201 else 0)
    else if tallyQuota d x 1 then 0 else 0x0303

/-- TSETC: counter mode with COUNT = n; GEN is unchanged (R225, R237). -/
def execTsetc (c : Nat) (f : Fields) (s : State) : Host.Outcome State Fault Refusal :=
  onControl 1 c f s fun d k i =>
    let r := getX k f.rs1
    let st := tsetcStatus d i.ctx r
    match nodeKey r with
    | some key =>
      if st = 0 then
        let y := tallyOf d key
        retireX (examine (tallySet d key
          { y with inuse := true, barrier := false, up := false, count := tallyN f, p := 0, parent := 0, owner := i.ctx, paths := [] }) key)
          c f.rd 0
      else retireX d c f.rd (BitVec.ofNat 64 st)
    | none => retireX d c f.rd (BitVec.ofNat 64 st)

/-- Whether a parent may stand above a node (R235): a higher level, or a slot above a slot; a cluster's die tree is its own die's. -/
def parentOk (k : Nat) (r parent : Word) : Bool :=
  if refNone parent then true
  else match nodeKey parent with
    | none => false
    | some _ =>
      (decide (refLevel r < refLevel parent) || (decide (refLevel r = 4) && decide (refLevel parent = 4))) &&
        (decide (refLevel parent ≠ 2) || decide (refLevel r = 1 ∧ refCluster parent = k / 1024 / 8))

/-- The status of TSETB (R235, R237, R239). -/
def tsetbStatus (d : Dev) (x : Nat) (r parent : Word) (p : Nat) : Nat :=
  match nodeKey r with
  | none => 0x0201
  | some k =>
    let y := tallyOf d k
    if outsideMask d x k ∨ (refLevel r = 4 ∧ refPackage r ≠ ownIndex d) ∨ !parentOk k r parent ∨ p = 0 ∨
        (refLevel r ≠ 1 ∧ 16 < p) then 0x0201
    else if heldByOther d x k then 0x0303
    else if y.inuse then (if tallyBusy y then 0x0201 else 0)
    else if tallyQuota d x 1 then 0 else 0x0303

/-- TSETB: barrier mode with COUNT 0, P and PARENT; GEN is unchanged (R225, R237). -/
def execTsetb (c : Nat) (f : Fields) (s : State) : Host.Outcome State Fault Refusal :=
  onControl 2 c f s fun d k i =>
    let r := getX k f.rs1
    let parent := getX k f.rs2
    let p := immBits f 15 0
    let st := tsetbStatus d i.ctx r parent p
    match nodeKey r with
    | some key =>
      if st = 0 then
        let y := tallyOf d key
        retireX (tallySet d key
          { y with inuse := true, barrier := true, up := false, count := 0, p := BitVec.ofNat 16 p, parent := parent, owner := i.ctx,
                   paths := [] }) c f.rd 0
      else retireX d c f.rd (BitVec.ofNat 64 st)
    | none => retireX d c f.rd (BitVec.ofNat 64 st)

/-- The status of TDROP (R237). -/
def tdropStatus (d : Dev) (x : Nat) (r : Word) : Nat :=
  match nodeKey r with
  | none => 0x0201
  | some k =>
    let y := tallyOf d k
    if outsideMask d x k ∨ (refLevel r = 4 ∧ refPackage r ≠ ownIndex d) ∨ !y.inuse ∨ heldByOther d x k ∨ tallyBusy y then 0x0201
    else 0

/-- TDROP makes the tally free (R225, R239); its generation stays (log entry 30, DESIGN CHOICE). -/
def execTdrop (c : Nat) (f : Fields) (s : State) : Host.Outcome State Fault Refusal :=
  onControl 3 c f s fun d k i =>
    let r := getX k f.rs1
    let st := tdropStatus d i.ctx r
    match nodeKey r with
    | some key =>
      if st = 0 then
        let y := tallyOf d key
        retireX (tallySet d key { Tally.reset with gen := y.gen, line := y.line }) c f.rd 0
      else retireX d c f.rd (BitVec.ofNat 64 st)
    | none => retireX d c f.rd (BitVec.ofNat 64 st)

/-- WAIT_CLOCK_GATE: the unit of a waiting queue is clock-gated (R233). -/
def execWaitClockGate (c : Nat) (s : State) : Host.Outcome State Fault Refusal :=
  if c < 256 then
    .next { s with dev := if (coreOf s.dev c).status = .waiting then coreUpd s.dev c fun k => { k with gated := true } else s.dev }
  else .next s

/-! ### Messages -/

/-- Whether two messages come from one source, whose messages stay in order (R234). -/
def sameSource (a b : TallyMsg) : Bool := decide (a.charge = b.charge) && decide (a.path = b.path)

/-- Takes a message off its way: the oldest of its source goes first. -/
def takeMsg (m : TallyMsg) : List TallyMsg → Option (List TallyMsg)
  | [] => none
  | h :: r => if h = m then some r else if sameSource h m then none else (takeMsg m r).map (h :: ·)

/-- Whether a message comes from another package (R230). -/
def fromOutside (d : Dev) (m : TallyMsg) : Bool :=
  match m.charge with
  | .package => true
  | .node => decide (m.path ≠ 0) && decide (refPackage m.path ≠ ownIndex d)
  | _ => false

/-- A message reaches its node: one on its way within the package, or one that another package sent. One for a tally of the compute dies
wakes the package (R391). -/
def arriveMsg (d : Dev) (m : TallyMsg) : Dev :=
  match nodeKey m.node with
  | none => d
  | some k =>
    let w := if k < 33024 then wakeBy d 5 else d
    match takeMsg m d.inflight with
    | some r => deliver { w with inflight := r } k m
    | none => if fromOutside d m then deliver w k m else d

/-- An arrival of a child reaches its parent node (R227, R236). -/
def execTallyRemoteArrival (m : TallyMsg) (s : State) : Host.Outcome State Fault Refusal :=
  .next { s with dev := if m.op = .arrive ∧ m.charge = .node then arriveMsg s.dev m else s.dev }

/-- A release of a parent reaches a child (R236). -/
def execTallyRemoteRelease (m : TallyMsg) (s : State) : Host.Outcome State Fault Refusal :=
  .next { s with dev := if m.op = .release ∧ m.charge = .node then arriveMsg s.dev m else s.dev }

/-- A signal, decrement or arrival of a unit or package elsewhere takes effect (R234). -/
def execSignalRemote (m : TallyMsg) (s : State) : Host.Outcome State Fault Refusal :=
  .next { s with dev := if m.op ≠ .release ∧ m.charge ≠ .node then arriveMsg s.dev m else s.dev }

end Sys2Proof.Machine
end

