-- ==== Sys2Proof/Machine/Values.lean ====
section
/-! DEFINITION. What the objects of the dictionary read as (R366, R367, R372 and the defining chapters), and which of them answer. -/

namespace Sys2Proof.Machine

/-! ### Computed values -/

/-- The state code of a context (R262). -/
def stateCode : CState → Nat
  | .free => 0
  | .idle => 1
  | .running => 2
  | .preempting => 3
  | .harvested => 4
  | .restoring => 5
  | .reclaiming => 6
  | .scrubbing => 7
  | .frozen => 8

/-- The state code of a link (R319). -/
def linkCode : LinkState → Nat
  | .off => 0
  | .detect => 1
  | .lock => 2
  | .align => 3
  | .fecUp => 4
  | .ident => 5
  | .active => 6
  | .quiet => 7
  | .absent => 8
  | .miswired => 9

/-- Whether any use of a context exceeds its quota: HBM, tier, tallies (R271). -/
def overQuota (d : Dev) (x : Nat) : Bool :=
  let above (kind : Nat) : Bool := match quotaOf d x kind with | some q => decide (q < mibHeld d x kind) | none => false
  above 0 || above 1 || !tallyQuota d x 0

/-- TABLE_SLOTS: bit i is 1 when slot i holds a table (R123). -/
def tableSlots (k : Ctx) : Nat := k.tables.foldl (fun n e => if e.2.isSome then n ||| 2 ^ e.1 else n) 0

/-- STATE as it reads (R262). -/
def stateWord (d : Dev) (x : Nat) : Nat :=
  let k := ctxOf d x
  let budget := cobj d x 7
  stateCode k.state + 2 ^ 8 * b2n (overQuota d x) + 2 ^ 9 * b2n (!k.faults.isEmpty) +
    2 ^ 10 * b2n (decide (budget ≠ 0) && decide (1000 * budget < og d 0x6038 (x + 1))) + 2 ^ 11 * b2n k.stalled + 2 ^ 16 * k.stale.toNat

/-- The load object of a context (R280). -/
def loadWord (l : LoadSt) : Nat := l.state + if 2 ≤ l.state then 2 ^ 8 * l.reason else 0

/-- UPSTREAM (R329). -/
def upstreamCode (d : Dev) : Nat :=
  match d.otime.upstream with
  | none => 0xFF
  | some l => portOfLink l + 16 * (if l < 8 then l % 4 else if 15 ≤ l then l - 15 else 0)

/-- Sixteen log entries from the window's index, zero bytes beyond the newest (R340). -/
def logWindow (l : List (BitVec 128)) (first : Nat) : List Byte :=
  let b := ((l.drop first).take 16).flatMap fun e => toLE 16 e.toNat
  b ++ zeros (256 - b.length)

/-- A journal entry (R376). -/
def entryBytes (e : JEntry) : List Byte :=
  toLE 8 e.time.toNat ++ toLE 6 e.source.toNat ++ toLE 1 e.kind ++ toLE 1 e.sub ++ toLE 2 e.index ++ toLE 2 e.status ++ toLE 2 e.length ++
    zeros 2 ++ toLE 8 e.old.toNat ++ toLE 8 e.new.toNat ++ toLE 4 e.seq ++ zeros 4

/-- Counts that no command moves on: grants, waits and emergency cycles of the arbiters (R174) but those of the ring egress, the patrol
scrubber and the debug port; pauses of a ring port and waits for credit (R285); codewords (R319). The width of each. -/
def timedCount (idx sub : Nat) : Option Nat :=
  if 0x7030 ≤ idx ∧ idx < 0x7034 then
    (if sub = 0 ∨ 9 < sub then none
    else if sub = 9 then (if idx = 0x7030 ∨ idx = 0x7031 then none else some 64)
    else if 5 ≤ sub then some 32
    else if idx = 0x7033 then none
    else some 64)
  else if (idx = 0x3001 ∧ (sub = 7 ∨ sub = 8)) ∨ (0x3100 ≤ idx ∧ idx < 0x3114 ∧ (sub = 10 ∨ sub = 11)) then some 64
  else none

/-- What happened in the meantime is added to such a count when it is read: by how much is timing and noise, which are free (log entry 22,
DESIGN CHOICE). -/
def catchUp (d : Dev) (n idx sub : Nat) : Dev :=
  match timedCount idx sub with
  | some w => obump d w idx sub (Config.number n)
  | none => d

/-- A value of the objects of a physical engine (R319). -/
def opticValue (d : Dev) (e sub : Nat) : Nat :=
  let ls := linksAt d e
  let link (g : Nat) : Option Link := (ls[g]?).map (linkOf d)
  match sub with
  | 1 => (logicalOptic d e).getD 0xFF
  | 2 => (List.range 4).foldl (fun s g => match link g with | some k => s + linkCode k.state * 2 ^ (8 * g) | none => s) 0
  | 7 => (ls.foldl (fun s l => s ||| (linkOf d l).used) 0).toNat
  | s =>
    if 3 ≤ s ∧ s ≤ 6 then (match link (s - 3) with | some k => fld k.partner 0 8 | none => 0)
    else og d (0x3100 + e) s

/-- The number that an object of a fixed size reads as. -/
def numberOf (d : Dev) (idx sub : Nat) : Nat :=
  if 0x5000 ≤ idx ∧ idx < 0x5400 then
    let x := (idx - 0x5000) / 16
    (match sub with
    | 1 => stateWord d x
    | 11 => tableSlots (ctxOf d x)
    | 12 => talliesInUse d x
    | 14 => mibHeld d x 0
    | 15 => mibHeld d x 1
    | s => cobj d x s)
  else if 0x3100 ≤ idx ∧ idx < 0x3114 then opticValue d (idx - 0x3100) sub
  else if 0x2100 ≤ idx ∧ idx < 0x2104 then physCluster d (8 * (idx - 0x2100) + sub - 1)
  else if 0x2110 ≤ idx ∧ idx < 0x2130 then physCore d (8 * (idx - 0x2110) + sub - 1)
  else if idx = 0x2140 then physOptic d (sub - 1)
  else if idx = 0x2000 then sparesFree d sub
  else if idx = 0x1000 ∧ sub = 4 then Config.serial.toNat
  else if idx = 0x1000 ∧ sub = 5 then Config.mac.toNat
  else if idx = 0x3010 ∧ sub = 3 then d.graft.fibres.toNat
  else if idx = 0x3028 then ringTrains d (sub - 1)
  else if idx = 0x3050 then (match sub with
    | 2 => d.otime.state
    | 3 => d.otime.count.toNat
    | 4 => upstreamCode d
    | 5 => d.otime.hops
    | 6 => (BitVec.ofInt 32 d.otime.lastOffset).toNat
    | s => og d idx s)
  else if idx = 0x4001 then (match sub with
    | 1 => 182849
    | 2 => framesFree d 0
    | 3 => d.vm.tierFrames
    | _ => framesFree d 1)
  else if idx = 0x4071 then loadWord (ctxOf d (sub - 1)).load
  else if idx = 0x4072 then (ctxOf d (sub - 1)).load.bytes
  else if idx = 0x6000 ∧ sub = 1 then d.power.state
  else if idx = 0x6021 then look 0 d.power.effective (sub - 1)
  else if idx = 0x70FD then b2n (commitPending d)
  else og d idx sub

/-- The bytes of an object of varying size or of a DOMAIN. -/
def bytesOf (d : Dev) (m : Meter) (idx sub : Nat) : List Byte :=
  if idx = 0x1000 then (match sub with
    | 1 => strBytes "Yachesal"
    | 2 => strBytes "DB-9160"
    | 3 => strBytes "B1"
    | _ => d.mgmt.asset.getD [])
  else if idx = 0x2130 then (List.range 1024).flatMap fun e => toLE 2 (look 0x3FFF d.graft.columns e)
  else if idx = 0x3062 then (List.range 64).flatMap fun i => toLE 2 (routeOf d (og d 0x3061 0 + i))
  else if idx = 0x8000 then logWindow d.faults.wf (og d 0x8000 3)
  else if idx = 0x8001 then logWindow d.faults.ce (og d 0x8001 3)
  else if idx = 0x8021 then toLE 16 (og d 0x8021 sub)
  else if idx = 0xA000 then d.mgmt.journal.flatMap entryBytes
  else sealedValue d m idx sub

/-- The value of an object that exists: its bytes (R366, R367). A WO object reads as zero bytes. -/
def objValue (d : Dev) (m : Meter) (idx sub : Nat) : List Byte :=
  match objEntry idx sub with
  | none => []
  | some (.wo, t) => (match t with | .domain _ => [] | t => zeros t.size)
  | some (.sealed, _) => sealedValue d m idx sub
  | some (_, t) =>
    if sub = 0 ∧ (objSingle idx).isNone then toLE 1 ((objSubs idx).getD []).length
    else (match t with
      | .u k => toLE k (numberOf d idx sub)
      | .bool => toLE 1 (numberOf d idx sub)
      | _ => bytesOf d m idx sub)

/-! ### Who answers (R363, R373, R391, R393, R403) -/

/-- Whether the management controller's firmware runs (R394). -/
def mgmtUp (d : Dev) : Bool := d.power.vaux && bootDone d

/-- Whether the boot ROM answers in its place (R393). -/
def romUp (d : Dev) : Bool := d.power.vaux && romOnly d

/-- Objects that answer from the moment the firmware runs (R373, R396). -/
def earlyObject (idx : Nat) : Bool :=
  decide (idx = 0x1000) || decide (idx = 0x1100) || (decide (0x8000 ≤ idx) && decide (idx ≤ 0x8021)) ||
    (decide (0x9000 ≤ idx) && decide (idx ≤ 0x91FF)) || decide (idx = 0xA000) || decide (idx = 0x603F)

/-- Whether an object's unit is still starting (R373). Log entry 121, DEDUCED. -/
def starting (d : Dev) (idx : Nat) : Bool := decide (og d 0x1000 7 = 0) && !earlyObject idx

/-- Whether the meter cannot answer: no status record for 1 s, or a read request to a meter that does not run (R401, R403).
Log entry 124, DEDUCED. -/
def meterMute (d : Dev) (m : Meter) (idx : Nat) : Bool := d.mgmt.meterSilent || (!m.running && decide (idx ≠ 0x9010))

/-- Writes that need a powered unit: of the compute dies and HBM, and in S4 of the hub too (R389, R391). Log entry 88, DEDUCED. -/
def needsUnit (d : Dev) (idx sub : Nat) : Bool :=
  decide (1 ≤ sleep d) &&
    ((decide (idx = 0x2010) && decide (sub = 2)) || decide (idx = 0x4010) || decide (idx = 0x4011) || decide (idx = 0x4060) ||
      decide (idx = 0x4070) || decide (idx = 0x6020) || decide (idx = 0x70FF) ||
      (decide (0x5000 ≤ idx) && decide (idx < 0x5400) && decide (sub = 1)) ||
      (decide (sleep d = 4) &&
        ((decide (idx = 0x3000) && decide (sub = 1)) || (decide (idx = 0x3050) && (decide (sub = 1) || decide (sub = 7))) ||
          decide (idx = 0x3060) || (decide (0x3100 ≤ idx) && decide (idx < 0x3114)))))

end Sys2Proof.Machine
end

