-- ==== Sys2Proof/Machine/Writes.lean ====
section
/-! DEFINITION. What a write to each object of the dictionary is answered and does (R366 to R370 and the defining chapters). -/

namespace Sys2Proof.Machine

/-! ### Conditions on the value and the owning block -/

/-- Whether a context bound to the ring holds clusters: the ring's locked objects refuse (R285). -/
def ringLocked (d : Dev) : Bool := (List.range 64).any fun x => decide (og d 0x3020 (x + 1) = 1) && holdsAny d x

/-- Whether a context is RUNNING. -/
def ctxRuns (d : Dev) (x : Nat) : Bool := decide ((ctxOf d x).state = .running)
/-- Whether a context is FREE: ctx 0 never is (R264). -/
def ctxFree (d : Dev) (x : Nat) : Bool := decide (x ≠ 0) && decide ((ctxOf d x).state = .free)

/-- 0x0105 while locked, then 0x0201 out of range (R370). -/
def lockRange (locked ok : Bool) : Nat := if locked then 0x0105 else if ok then 0 else 0x0201

/-- Objects of one context (R102, R172, R253, R262). -/
def ctxWriteCheck (d : Dev) (x sub v : Nat) : Nat :=
  match sub with
  | 1 => stateCheck d x v
  | 2 => lockRange (!ctxFree d x) true
  | 3 => lockRange false (decide (v = 0xFFFFFFFF) || decide (v % 2 = 0))
  | 4 => lockRange false (decide (v = 0xFFFFFFFF) || decide (v % 2 = 0))
  | 6 => lockRange false (decide (v ≤ 3))
  | 9 => lockRange (!ctxFree d x) (decide (v ≤ 0x3FFFFFF))
  | 10 => lockRange false (decide (1 ≤ v) && decide (v ≤ 128))
  | _ => 0

/-- Ring objects (R285, R287, R343). -/
def ringWriteCheck (d : Dev) (idx sub v : Nat) : Nat :=
  let x := sub - 1
  if idx = 0x3000 then lockRange (ringLocked d) (match sub with
    | 1 => decide (v ≤ 1)
    | 2 => decide (1 ≤ v) && decide (v ≤ 256) && decide (og d 0x3000 3 + 1 ≤ v)
    | 3 => decide (v + 1 ≤ og d 0x3000 2)
    | _ => true)
  else if idx = 0x3020 then
    lockRange (!(ctxFree d x || decide ((ctxOf d x).state = .harvested))) (decide (v ≤ 1))
  else if idx = 0x3021 then lockRange (ctxRuns d x) (decide (v % 4096 = 0))
  else if idx = 0x3022 ∨ idx = 0x3024 then lockRange (ctxRuns d x) (decide (v % 32 = 0))
  else if idx = 0x3023 ∨ idx = 0x3025 then lockRange (ctxRuns d x) (decide (v ≤ 65536))
  else if idx = 0x3027 then lockRange false (decide (v ≤ 4096))
  else if idx = 0x3030 then
    let c := lockRange (ringLocked d) (decide (v = sub) || (decide (3 ≤ v) && decide (v ≤ 9)))
    if c = 0 ∧ og d 0x2010 1 = 0 then 0x0302 else c
  else 0

/-- Objects of management, power and AUX_SIG (R358, R374, R375, R382, R385, R392). Log entry 125, DEDUCED. -/
def powerWriteCheck (d : Dev) (idx sub v : Nat) : Nat :=
  if idx = 0x1100 then (match sub with
    | 3 => lockRange false (decide (1 ≤ v) && decide (v ≤ 32))
    | 4 => lockRange false (decide (1 ≤ v) && decide (v ≤ 255))
    | 5 => lockRange false (decide (v ≤ 7))
    | 9 => if v ≠ 1 ∧ v ≠ 2 then 0x0201 else if d.mgmt.storing.isSome then 0x0302 else 0
    | _ => 0)
  else if (idx = 0x6000 ∧ sub = 2) ∨ idx = 0x6011 then lockRange false (decide (v ≤ 4))
  else if idx = 0x6020 then lockRange false (decide (v ≤ 2))
  else if idx = 0x6031 then lockRange false (decide (70 ≤ v) && decide (v ≤ if sub = 1 then 105 else 100))
  else if idx = 0x6040 then
    (if v = 1 ∧ og d 0x6040 (3 - sub) = 1 then 0x0304 else 0)
  else 0

/-- The answer that an object's own chapter gives to a value of the right length. -/
def objectCheck (d : Dev) (idx sub : Nat) (data image : List Byte) : Nat :=
  let v := leNat data
  if 0x5000 ≤ idx ∧ idx < 0x5400 then ctxWriteCheck d ((idx - 0x5000) / 16) sub v
  else if idx = 0x4060 then mapCheck d data
  else if idx = 0x4070 then loadCheck d data image
  else if idx = 0x4010 ∨ idx = 0x4011 then divisionCheck d idx (sub - 1) v
  else if idx = 0x4020 then lockRange false (decide (1 ≤ v))
  else if idx = 0x4040 ∨ idx = 0x4041 then lockRange false (decide (v % 2097152 = 0))
  else if idx = 0x2010 then (if sub = 1 then recoveryCheck d v else graftCheck d data)
  else if 0x3000 ≤ idx ∧ idx ≤ 0x3030 ∧ idx ≠ 0x3010 then ringWriteCheck d idx sub v
  else if idx = 0x3010 then (if sub = 1 then lockRange (anyActive d) (decide (v ≤ 16383)) else 0)
  else if idx = 0x3050 then (if sub = 1 then lockRange false (decide (v ≤ 1)) else timeSetCheck d)
  else if idx = 0x3060 then routeCheck data
  else if 0x3100 ≤ idx ∧ idx < 0x3114 then lockRange false (decide (1 ≤ v) && decide (v ≤ 3))
  else if 0x7001 ≤ idx ∧ idx ≤ 0x7004 then lockRange false (decide (v ≤ 3))
  else if idx = 0x7010 then lockRange false (decide (256 ≤ v))
  else if idx = 0x70FF then lockRange false (decide (v = 1))
  else if (idx = 0x8000 ∨ idx = 0x8001) ∧ sub = 3 then lockRange false (decide (v ≤ 1023))
  else if idx = 0x8000 then wfAckCheck v
  else if idx = 0x8020 ∨ idx = 0x8021 then lockRange (ctxRuns d (sub - 1)) true
  else powerWriteCheck d idx sub v

/-- Whether data has the length of a type (R366); the defining chapter checks a DOMAIN with no stated length. -/
def lengthOk (t : OType) (n : Nat) : Bool :=
  match t with
  | .u k => decide (n = k)
  | .bool => decide (n = 1)
  | .str k => decide (n ≤ k)
  | .domain (some k) => decide (n = k)
  | .domain none => true

/-- The answer to a write (R366, R367, R370, R373); 0 for success. -/
def writeStatus (d : Dev) (idx sub : Nat) (data image : List Byte) : Nat :=
  match objEntry idx sub with
  | none => 0x0101
  | some (a, t) =>
    if !lengthOk t data.length then 0x0202
    else if a = .ro ∨ a = .const then 0x0102
    else if a = .sealed then 0x0104
    else if a = .wonce ∧ d.mgmt.asset.isSome then 0x0103
    else
      let own := objectCheck d idx sub data image
      let own := if t = .bool ∧ 1 < leNat data ∧ own ≠ 0x0105 then 0x0201 else own
      if own ≠ 0 ∧ own ≠ 0x0302 ∧ own ≠ 0x0401 then own
      else if starting d idx then 0x0302
      else own

/-! ### Effects -/

/-- NV_STORE: 1 copies the storable values to flash, 2 erases them (R374). -/
def nvStart (d : Dev) (v : Nat) : Dev :=
  if v = 1 then
    mgmtUpd (oset d 0x1100 10 2) fun m => { m with storing := some (d.obj.filter fun e => storable (e.1 / 256) (e.1 % 256)) }
  else mgmtUpd (oset d 0x1100 10 0) fun m => { m with stored := none }

/-- What an accepted write does (R368). Log entry 123, DEDUCED. -/
def objectApply (d : Dev) (idx sub : Nat) (data image : List Byte) : Dev :=
  let v := leNat data
  if 0x5000 ≤ idx ∧ idx < 0x5400 then
    let x := (idx - 0x5000) / 16
    if sub = 1 then stateApply d x v
    else
      let old := cobj d x sub
      let d := cobjSet d x sub v
      if sub = 3 ∨ sub = 4 ∨ sub = 8 then reclaimWritten d x sub old v else d
  else if idx = 0x4060 then mapApply d data
  else if idx = 0x4070 then loadApply d data image
  else if idx = 0x4010 ∨ idx = 0x4011 then divisionApply d idx (sub - 1) v
  else if idx = 0x4040 ∨ idx = 0x4041 then reclaimAll (oset d idx sub v)
  else if idx = 0x2010 ∧ sub = 2 then graftApply d data
  else if idx = 0x3000 ∧ sub = 1 then ringEnableApply d v
  else if idx = 0x3026 then oset d idx sub (BitVec.ofNat 16 (og d idx sub) &&& ~~~(BitVec.ofNat 16 v)).toNat
  else if idx = 0x3050 then (if sub = 1 then roleApply d v else timeSetApply d v)
  else if idx = 0x3060 then routeApply d data
  else if 0x3100 ≤ idx ∧ idx < 0x3114 then linkCommand d (idx - 0x3100) v
  else if idx = 0x6020 then pRequestApply d sub v
  else if idx = 0x7021 then flaggedApply d sub v
  else if idx = 0x70FF then commitApply d
  else if idx = 0x8000 ∧ sub = 5 then wfAckApply d
  else if idx = 0x1100 ∧ sub = 6 then oset d idx sub (v % 2 ^ 48)
  else if idx = 0x1100 ∧ sub = 9 then nvStart d v
  else if idx = 0x1000 then mgmtUpd d fun m => { m with asset := some data }
  else oset d idx sub v

/-- A limit that no longer allows the current power state starts a wake (R391). -/
def limitWake (d : Dev) (idx sub : Nat) : Dev :=
  if ((idx = 0x6000 ∧ sub = 2) ∨ idx = 0x6010 ∨ idx = 0x6011) ∧ sleep d ≠ 0 ∧ stateAllowed d (sleep d) = false then wakeBy d 6 else d

/-- Decides one write: its answer and its effect. A write that needs a unit which sleeps in S3 or S4 wakes it and is answered 0x0401;
in S1 and S2 the unit wakes within the time of the answer (R363, R391). -/
def decideWrite (d : Dev) (idx sub : Nat) (data image : List Byte) : Nat × Dev :=
  let st := writeStatus d idx sub data image
  if st ≠ 0 then (st, if idx = 0x4070 ∧ st ≠ 0x0202 ∧ !starting d idx then imageReads d data image else d)
  else if needsUnit d idx sub then
    let deep := decide (3 ≤ sleep d)
    let d := wakeBy d 3
    if deep then (0x0401, d) else (0, objectApply d idx sub data image)
  else (0, limitWake (objectApply d idx sub data image) idx sub)

end Sys2Proof.Machine
end

