-- ==== Sys2Proof/Machine/Mgmt.lean ====
section
/-! DEFINITION. The object protocol (R357 to R365, R376, R378): frames, the mailbox, READ, WRITE, DISCOVER, segments, answers, EVENT. -/

namespace Sys2Proof.Machine

/-! ### Messages (R359) -/

/-- A message: its 16-byte header and data. Log entry 119, DEDUCED. -/
def message (service txn idx sub flags status off : Nat) (data : List Byte) : List Byte :=
  toLE 1 1 ++ toLE 1 service ++ toLE 2 txn ++ toLE 2 idx ++ toLE 1 sub ++ toLE 1 flags ++ toLE 2 status ++ toLE 2 data.length ++
    toLE 4 off ++ data

/-- A payload on the segment is at least 46 bytes long. -/
def padded (msg : List Byte) : List Byte := msg ++ zeros (46 - msg.length)

/-- The octets of an address as they are sent, its most significant one first, and the address that octets name (IEEE 802.3; R6). -/
def macBytes (m : BitVec 48) : List Byte := (toLE 6 m.toNat).reverse
def macOf (b : List Byte) : BitVec 48 := BitVec.ofNat 48 (leNat b.reverse)

/-- EtherType 0x88B5 as it is sent (R6, R357). -/
def etherType : List Byte := [0x88, 0xB5]

/-- A frame that the package sends (R6, R357, R359). -/
def etherFrame (dst : BitVec 48) (msg : List Byte) : List Byte := macBytes dst ++ macBytes Config.mac ++ etherType ++ msg

/-- The largest data of a message at a door. -/
def dataLimit (door : Door) : Nat := match door with | .mailbox => 16368 | .segment _ => 1484

/-- Keeps the response for repeats: the last one of each of the last 32 sources (R364). -/
def keepResp (l : List Resp) (r : Resp) : List Resp :=
  let l := l.filter (fun e => decide (e.mac ≠ r.mac)) ++ [r]
  l.drop (l.length - 32)

/-- Sends an answer through the door of its request (R355, R359, R364). -/
def answer (d : Dev) (src : Source) (service idx sub status off : Nat) (data : List Byte) : Dev :=
  let msg := message service src.txn.toNat idx sub 1 status off data
  match src.door with
  | .mailbox =>
    signalMsix (hostSet d fun h => { h with
      rsp := writeMem [] 0 msg, rspLen := msg.length, busy := false, done := true }) 128
  | .segment mac =>
    emit (mgmtUpd d fun m => { m with
      cache := keepResp m.cache ⟨mac, src.txn, service, idx, sub, off, padded msg, d.otime.count⟩ }) (.frame (etherFrame mac (padded msg)))

/-! ### The request queue (R363) -/

/-- Removes the request at the head. -/
def popRequest (d : Dev) : Dev := mgmtUpd d fun m => { m with queue := m.queue.tail }

/-- A request enters the queue, which holds up to 8; beyond that it is answered 0x0302 (R363). -/
def enqueue (d : Dev) (r : Request) : Dev :=
  if 8 ≤ d.mgmt.queue.length then answer (obump d 32 0x1100 8 1) r.src r.service r.index r.sub 0x0302 r.off []
  else mgmtUpd d fun m => { m with queue := m.queue ++ [r] }

/-- Whether a command may run: it is the request at the head, or nothing waits and the command stands for its own arrival. -/
def atHead (d : Dev) (p : Request → Bool) : Bool := match d.mgmt.queue with | [] => true | r :: _ => p r

/-- A request from the fields of a message. Log entry 117, DEDUCED. -/
def parseRequest (src : Source) (msg : List Byte) : Request :=
  let n := fld msg 10 2
  { src := src, service := fld msg 1 1, index := fld msg 4 2, sub := fld msg 6 1, more := bit (fld msg 7 1) 1,
    len := n, off := fld msg 12 4, data := (msg.drop 16).take n }

/-! ### Segmented writes (R362) -/

/-- The pending segmented write of a door. -/
def segOf (d : Dev) (door : Door) : Option Seg := d.mgmt.segs.find? fun s => decide (s.door = door)

/-- Abandons it; also forgets that one timed out. -/
def dropSeg (d : Dev) (door : Door) : Dev :=
  mgmtUpd d fun m => { m with segs := m.segs.filter fun s => decide (s.door ≠ door) }
def dropLate (d : Dev) (door : Door) : Dev :=
  mgmtUpd d fun m => { m with late := m.late.filter fun s => decide (s ≠ door) }

/-- Whether a segment continues the pending write of its door. -/
def continues (d : Dev) (door : Door) (idx sub off : Nat) : Bool :=
  match segOf d door with
  | some s => decide (s.index = idx) && decide (s.sub = sub) && decide (s.data.length = off)
  | none => false

/-- The answer to a continuation with no place: 0x0401 after a timeout, else 0x0202. -/
def strayStatus (d : Dev) (door : Door) : Nat := if (segOf d door).isNone ∧ d.mgmt.late.contains door then 0x0401 else 0x0202

/-- Buffers a non-final segment: its answer and effect. -/
def bufferSegment (d : Dev) (door : Door) (idx sub off : Nat) (data : List Byte) : Nat × Dev :=
  if off = 0 then
    let d := dropLate (dropSeg d door) door
    if 4 ≤ d.mgmt.segs.length then (0x0303, d)
    else (0, mgmtUpd d fun m => { m with segs := m.segs ++ [⟨door, idx, sub, data⟩] })
  else if continues d door idx sub off then
    (0, mgmtUpd d fun m => { m with segs := m.segs.map fun s => if s.door = door then { s with data := s.data ++ data } else s })
  else (strayStatus d door, dropSeg d door)

/-! ### Writes (R360, R376) -/

/-- Journals a decided write: the source, OLD and NEW (R376). -/
def journalWrite (d : Dev) (door : Door) (idx sub status : Nat) (old data : List Byte) : Dev :=
  let (mac, kind) : BitVec 48 × Nat := match door with | .mailbox => (0, 1) | .segment mac => (mac, 0)
  journal d mac kind sub idx status data.length (leNat (old.take 8)) (leNat (data.take 8))

/-- The value before a write; while the meter does not answer, a SEALED object's is not known (R403; log entry 22, DESIGN CHOICE). -/
def oldValue (d : Dev) (m : Meter) (n idx sub : Nat) : List Byte :=
  if isSealed idx sub && meterMute d m idx then toLE 8 (Config.number n) else objValue d m idx sub

/-- Performs a whole write, journals it and answers it. -/
def writeWhole (d : Dev) (m : Meter) (src : Source) (idx sub off : Nat) (data image : List Byte) : Dev :=
  let (n, d) := draw d
  let d := catchUp d n idx sub
  let old := oldValue d m n idx sub
  let (status, d) := decideWrite d idx sub data image
  answer (journalWrite d src.door idx sub status old data) src 2 idx sub status off []

/-- A final segment that continues nothing is refused, journalled and answered. Log entry 118, DEDUCED. -/
def refuseFinal (d : Dev) (m : Meter) (src : Source) (idx sub off : Nat) (data : List Byte) : Dev :=
  let (n, d) := draw d
  let status := strayStatus d src.door
  let d := journalWrite (dropSeg d src.door) src.door idx sub status (oldValue d m n idx sub) data
  answer d src 2 idx sub status off []

/-- Performs the write request at the head, whose whole value is `data`; with no request waiting, `data` is a whole unsegmented
write. A command that names another request than the head's changes nothing. -/
def performWrite (d : Dev) (m : Meter) (src : Source) (idx sub : Nat) (data image : List Byte) : Dev :=
  if !mgmtUp d then d
  else match d.mgmt.queue with
    | [] => writeWhole (dropSeg d src.door) m src idx sub 0 data image
    | r :: _ =>
      if r.src = src ∧ r.service = 2 ∧ r.index = idx ∧ r.sub = sub ∧ (r.more = false ∨ src.door = .mailbox) then
        if r.off = 0 then
          (if r.data = data then writeWhole (dropLate (dropSeg (popRequest d) src.door) src.door) m src idx sub 0 data image else d)
        else if continues d src.door idx sub r.off then
          (if ((segOf d src.door).map Seg.data).getD [] ++ r.data = data then
            writeWhole (dropSeg (popRequest d) src.door) m src idx sub r.off data image
          else d)
        else if r.data = data then refuseFinal (popRequest d) m src idx sub r.off data
        else d
      else d

/-- A write command: performed with the meter's values at hand. Log entry 115, DESIGN CHOICE. -/
def onWrite (s : State) (src : Source) (idx sub : Nat) (data image : List Byte) : State :=
  { s with dev := performWrite s.dev s.meter src idx sub data image }

/-- OBJECT_WRITE (R360, R362, R367 to R370). -/
def execObjectWrite (src : Source) (index sub : Nat) (data : List Byte) (s : State) : Host.Outcome State Fault Refusal :=
  .next (onWrite s src index sub data [])

/-- WRITE_SEGMENT: a non-final segment is buffered and answered, and not journalled; the mailbox has none (R362, R365). -/
def writeSegment (d : Dev) (src : Source) (idx sub off : Nat) (data : List Byte) : Dev :=
  let mine (r : Request) : Bool :=
    decide (r.src = src) && decide (r.service = 2) && decide (r.index = idx) && decide (r.sub = sub) && r.more && decide (r.off = off) &&
      decide (r.data = data)
  if !mgmtUp d ∨ src.door = .mailbox ∨ !atHead d mine then d
  else
    let (status, d) := bufferSegment (popRequest d) src.door idx sub off data
    answer d src 2 idx sub status off []

def execWriteSegment (src : Source) (index sub off : Nat) (data : List Byte) (s : State) : Host.Outcome State Fault Refusal :=
  .next { s with dev := writeSegment s.dev src index sub off data }

/-- SEGMENT_TIMEOUT: 10 ms without a segment (R362). -/
def segmentTimeout (d : Dev) (mac : BitVec 48) : Dev :=
  if (segOf d (.segment mac)).isSome then
    mgmtUpd (dropSeg d (.segment mac)) fun m => { m with late := m.late.filter (fun s => decide (s ≠ .segment mac)) ++ [.segment mac] }
  else d

def execSegmentTimeout (mac : BitVec 48) (s : State) : Host.Outcome State Fault Refusal := .next { s with dev := segmentTimeout s.dev mac }

/-! ### READ and DISCOVER (R360) -/

/-- The answer to a READ: status and data. -/
def readStatus (d : Dev) (m : Meter) (idx sub : Nat) : Nat :=
  match objEntry idx sub with
  | none => 0x0101
  | some (a, _) =>
    if starting d idx then 0x0302
    else if a = .sealed ∧ meterMute d m idx then 0x0401
    else 0

/-- Bytes that a READ returns: from OFFSET, up to the lesser of LENGTH and the limit of the door. -/
def readBytes (v : List Byte) (door : Door) (len off : Nat) : List Byte :=
  (v.drop off).take (min (if len = 0 then dataLimit door else len) (dataLimit door))

/-- Performs a READ; from ROM only 0x1000 is served (R393). -/
def readObject (d : Dev) (m : Meter) (src : Source) (idx sub len off : Nat) : Dev :=
  let mine (r : Request) : Bool :=
    decide (r.src = src) && decide (r.service = 1) && decide (r.index = idx) && decide (r.sub = sub) && decide (r.len = len) &&
      decide (r.off = off)
  if !(mgmtUp d || (romUp d && decide (idx = 0x1000))) ∨ !atHead d mine then d
  else
    let (n, d) := draw (popRequest d)
    let d := catchUp d n idx sub
    let status := readStatus d m idx sub
    answer d src 1 idx sub status off (if status = 0 then readBytes (objValue d m idx sub) src.door len off else [])

def execRead (src : Source) (index sub len off : Nat) (s : State) : Host.Outcome State Fault Refusal :=
  .next { s with dev := readObject s.dev s.meter src index sub len off }

/-- The 24 bytes of DISCOVER. -/
def identity (d : Dev) : List Byte :=
  toLE 8 Config.serial.toNat ++ toLE 8 Config.mac.toNat ++ toLE 2 (og d 0x3010 1) ++ toLE 1 (og d 0x1100 1) ++ toLE 1 (og d 0x1000 7) ++
    zeros 4

/-- DISCOVER; the mailbox has none (R365). INDEX, SUB and OFFSET are copied from the request. Log entry 126,
DEDUCED. -/
def discover (d : Dev) (src : Source) : Dev :=
  let mine (r : Request) : Bool := decide (r.src = src) && decide (r.service = 3)
  if !(mgmtUp d || romUp d) ∨ src.door = .mailbox ∨ !atHead d mine then d
  else
    let (idx, sub, off) := match d.mgmt.queue with | r :: _ => (r.index, r.sub, r.off) | [] => (0, 0, 0)
    answer (popRequest d) src 3 idx sub 0 off (identity d)

def execDiscover (src : Source) (s : State) : Host.Outcome State Fault Refusal := .next { s with dev := discover s.dev src }

/-! ### Doors (R355, R361, R364) -/

/-- The stored response that a repeated request is answered with, within 100 ms (R364). Log entry 116, DEDUCED. -/
def repeated (d : Dev) (mac : BitVec 48) (r : Request) : Option Resp :=
  d.mgmt.cache.find? fun e => decide (e.mac = mac) && decide (e.txn = r.src.txn) && decide (e.service = r.service) &&
    decide (e.index = r.index) && decide (e.sub = r.sub) && decide (e.off = r.off) &&
    decide ((d.otime.count - e.time).toNat ≤ 100 * msTicks)

/-- A broadcast destination. -/
def broadcast : BitVec 48 := 0xFFFFFFFFFFFF

/-- Whether a frame is discarded and counted (R361). -/
def frameBad (dst : BitVec 48) (msg : List Byte) : Bool :=
  let service := fld msg 1 1
  decide (fld msg 0 1 ≠ 1) || bit (fld msg 7 1) 0 || (decide (dst = broadcast) && decide (service ≠ 3)) ||
    !(decide (1 ≤ service) && decide (service ≤ 3))

/-- A protocol frame that arrives (R361, R363, R364, R393). A READ carries no data: its LENGTH is what it asks for.
Log entry 89, DEDUCED. -/
def frameReceive (d : Dev) (dst mac : BitVec 48) (msg : List Byte) : Dev :=
  if !(mgmtUp d || romUp d) ∨ (dst ≠ Config.mac ∧ dst ≠ broadcast) then d
  else if frameBad dst msg then obump d 32 0x1100 8 1
  else
    let r := parseRequest ⟨.segment mac, BitVec.ofNat 16 (fld msg 2 2)⟩ msg
    if !mgmtUp d ∧ r.service ≠ 3 ∧ !(r.service = 1 ∧ r.index = 0x1000) then d
    else if 1484 < r.len ∨ (r.service ≠ 1 ∧ msg.length < 16 + r.len) then answer d r.src r.service r.index r.sub 0x0202 r.off []
    else match repeated d mac r with
      | some e => emit (obump d 32 0x1100 7 1) (.frame (etherFrame mac e.msg))
      | none => if 8 ≤ d.mgmt.queue.length then enqueue d r else obump (enqueue d r) 32 0x1100 7 1

/-- FRAME_RECEIVE: a frame of another EtherType is discarded (R357). -/
def execFrameReceive (dst mac rest : List Byte) (s : State) : Host.Outcome State Fault Refusal :=
  .next (if rest.take 2 = etherType then { s with dev := frameReceive s.dev (macOf dst) (macOf mac) (rest.drop 2) } else s)

/-- A mailbox request is read and checked when its doorbell is written (R355, R363, R365). -/
def mailboxTake (d : Dev) (len : Nat) : Dev :=
  let msg := readMem d.host.req 0 len
  let r := parseRequest ⟨.mailbox, BitVec.ofNat 16 (fld msg 2 2)⟩ msg
  if r.service ≠ 1 ∧ r.service ≠ 2 then answer d r.src r.service r.index r.sub 0x0201 r.off []
  else if 16368 < r.len ∨ (r.service = 2 ∧ len < 16 + r.len) then answer d r.src r.service r.index r.sub 0x0202 r.off []
  else if 8 ≤ d.mgmt.queue.length then answer d r.src r.service r.index r.sub 0x0302 r.off []
  else enqueue d r

/-- MB_DOORBELL: DONE and REJECTED clear; a doorbell while BUSY, or with a length out of range, sets REJECTED (R355). -/
def doorbell (d : Dev) (len : Nat) : Dev :=
  if d.host.busy ∨ len = 0 ∨ 16384 < len then hostSet d fun h => { h with done := false, rejected := true }
  else mailboxTake (hostSet d fun h => { h with done := false, rejected := false, busy := true }) len

def execMbDoorbell (len : W32) (pre : List Posted) (s : State) : Host.Outcome State Fault Refusal :=
  onHost s fun d => doorbell (wakeBy (posted d pre) 1) len.toNat

/-! ### Events, flash, AUX_SIG (R374, R375, R378) -/

/-- EVENT: the oldest windfall not yet sent leaves as one frame (R378). -/
def sendEvent (d : Dev) : Dev :=
  if !mgmtUp d then d
  else match d.faults.events with
    | [] => d
    | (w, txn) :: r =>
      emit { d with faults := { d.faults with events := r } }
        (.frame (etherFrame (BitVec.ofNat 48 (og d 0x1100 6)) (padded (message 0x10 txn.toNat 0x8000 4 0 0 0 (toLE 16 w.toNat)))))

def execEvent (s : State) : Host.Outcome State Fault Refusal := .next { s with dev := sendEvent s.dev }

/-- NV_STORE_DONE: the copy completes, or fails and leaves the stored values as they were (R374; log entry 122, DEDUCED). -/
def nvDone (d : Dev) (good : Bool) : Dev :=
  match d.mgmt.storing with
  | none => d
  | some t =>
    if good then mgmtUpd (oset d 0x1100 10 1) fun m => { m with stored := some t, storing := none }
    else mgmtUpd (oset d 0x1100 10 3) fun m => { m with storing := none }

def execNvStoreDone (good : Bool) (s : State) : Host.Outcome State Fault Refusal := .next { s with dev := nvDone s.dev good }

/-- STEP_TRIG: the pin is an input while STEP_TRIG_EN is 1 (R375). -/
def stepTrig (d : Dev) : Dev :=
  if mgmtUp d ∧ og d 0x6040 1 = 1 then obump (oset d 0x6040 3 d.otime.count.toNat) 32 0x6040 4 1 else d

def execStepTrig (s : State) : Host.Outcome State Fault Refusal := .next { s with dev := stepTrig s.dev }

end Sys2Proof.Machine
end

