-- ==== Sys2Proof/Machine/Control.lean ====
section
/-! DEFINITION. The object writes that are commands of their own: contexts, mapping, loads, ring, links, time, spares, power, arbitration,
cluster division, stored defaults. Each is a write through one of the two doors, checked, journalled and answered like any other. -/

namespace Sys2Proof.Machine

/-! ### Contexts (R261 to R273) -/

/-- A command code written to STATE of a context; one beyond ctx 63 names an object that does not exist (R366, R370). -/
def stateWrite (x code : Nat) (src : Source) (s : State) : Host.Outcome State Fault Refusal :=
  .next (onWrite s src (0x5000 + 16 * min x 64) 1 (toLE 4 code) [])

def execCreate (src : Source) (x : Nat) (s : State) : Host.Outcome State Fault Refusal := stateWrite x 1 src s
def execEndContext (src : Source) (x : Nat) (s : State) : Host.Outcome State Fault Refusal := stateWrite x 2 src s
def execKill (src : Source) (x : Nat) (s : State) : Host.Outcome State Fault Refusal := stateWrite x 3 src s
def execPreempt (src : Source) (x : Nat) (s : State) : Host.Outcome State Fault Refusal := stateWrite x 4 src s
def execPreemptForced (src : Source) (x : Nat) (s : State) : Host.Outcome State Fault Refusal := stateWrite x 5 src s
def execRestore (src : Source) (x : Nat) (s : State) : Host.Outcome State Fault Refusal := stateWrite x 6 src s
def execAdopt (src : Source) (x : Nat) (s : State) : Host.Outcome State Fault Refusal := stateWrite x 7 src s

/-! ### Mapping and loads (R247, R277)

OP, byte 0 of the request, tells the commands apart. -/

def execMap (src : Source) (data : List Byte) (s : State) : Host.Outcome State Fault Refusal :=
  .next (if fld data 0 1 = 2 ∨ fld data 0 1 = 3 then s else onWrite s src 0x4060 0 data [])
def execUnmap (src : Source) (data : List Byte) (s : State) : Host.Outcome State Fault Refusal :=
  .next (if fld data 0 1 = 2 then onWrite s src 0x4060 0 data [] else s)
def execProtect (src : Source) (data : List Byte) (s : State) : Host.Outcome State Fault Refusal :=
  .next (if fld data 0 1 = 3 then onWrite s src 0x4060 0 data [] else s)
def execLoad (src : Source) (data image : List Byte) (s : State) : Host.Outcome State Fault Refusal :=
  .next (if fld data 0 1 = 2 ∨ loadWaits s.dev data = true then s else onWrite s src 0x4070 0 data image)
def execCancelLoad (src : Source) (data : List Byte) (s : State) : Host.Outcome State Fault Refusal :=
  .next (if fld data 0 1 = 2 then onWrite s src 0x4070 0 data [] else s)

/-! ### Ring, links, routing, time (R285, R319, R322, R329) -/

def execRingEnable (src : Source) (data : List Byte) (s : State) : Host.Outcome State Fault Refusal := .next (onWrite s src 0x3000 1 data [])

/-- A link command written to COMMAND of a physical engine; one beyond engine 19 names an object that does not exist (R366, R370). -/
def opticWrite (e code : Nat) (src : Source) (s : State) : Host.Outcome State Fault Refusal :=
  .next (onWrite s src (0x3100 + min e 20) 14 (toLE 1 code) [])

def execRetrain (src : Source) (e : Nat) (s : State) : Host.Outcome State Fault Refusal := opticWrite e 1 src s
def execDisable (src : Source) (e : Nat) (s : State) : Host.Outcome State Fault Refusal := opticWrite e 2 src s
def execEnable (src : Source) (e : Nat) (s : State) : Host.Outcome State Fault Refusal := opticWrite e 3 src s
def execRouteReq (src : Source) (data : List Byte) (s : State) : Host.Outcome State Fault Refusal := .next (onWrite s src 0x3060 0 data [])
def execTimeSet (src : Source) (data : List Byte) (s : State) : Host.Outcome State Fault Refusal := .next (onWrite s src 0x3050 7 data [])
def execTimeRole (src : Source) (data : List Byte) (s : State) : Host.Outcome State Fault Refusal := .next (onWrite s src 0x3050 1 data [])

/-! ### Windfalls, spares, P-states, arbitration, cluster memory (R340, R342, R383, R173, R152) -/

def execWfAck (src : Source) (data : List Byte) (s : State) : Host.Outcome State Fault Refusal := .next (onWrite s src 0x8000 5 data [])
def execGraftReq (src : Source) (data : List Byte) (s : State) : Host.Outcome State Fault Refusal := .next (onWrite s src 0x2010 2 data [])
def execRecovery (src : Source) (data : List Byte) (s : State) : Host.Outcome State Fault Refusal := .next (onWrite s src 0x2010 1 data [])
def execPRequest (src : Source) (sub : Nat) (data : List Byte) (s : State) : Host.Outcome State Fault Refusal :=
  .next (onWrite s src 0x6020 sub data [])
def execFlagged (src : Source) (sub : Nat) (data : List Byte) (s : State) : Host.Outcome State Fault Refusal :=
  .next (onWrite s src 0x7021 sub data [])
def execCommitArbitration (src : Source) (data : List Byte) (s : State) : Host.Outcome State Fault Refusal :=
  .next (onWrite s src 0x70FF 0 data [])
def execClusterCache (src : Source) (sub : Nat) (data : List Byte) (s : State) : Host.Outcome State Fault Refusal :=
  .next (onWrite s src 0x4010 sub data [])
def execBatcherEn (src : Source) (sub : Nat) (data : List Byte) (s : State) : Host.Outcome State Fault Refusal :=
  .next (onWrite s src 0x4011 sub data [])

/-! ### Stored defaults (R374) -/

def execNvStoreDefaults (src : Source) (s : State) : Host.Outcome State Fault Refusal := .next (onWrite s src 0x1100 9 (toLE 1 1) [])
def execNvErase (src : Source) (s : State) : Host.Outcome State Fault Refusal := .next (onWrite s src 0x1100 9 (toLE 1 2) [])

end Sys2Proof.Machine
end

