-- ==== Sys2Proof/Machine/Scalar.lean ====
section
/-! DEFINITION. The scalar operations of R194: arithmetic, loads and stores, branches, cache operations, FLAGS, CYCLE, OTIME, END. -/

namespace Sys2Proof.Machine

/-- NOP (R194); a word whose OP is not listed is refused with BAD_INSTRUCTION (R180); a word of another listed operation is that
operation's command. -/
def execNop (c : Nat) (w : Word) (s : State) : Host.Outcome State Fault Refusal :=
  if wordOp w = 0 then onCore c s fun d _ _ => retireDev d c
  else if (opInstr c (wordOp w) (wordFields w)).isSome then .refused .otherInstruction
  else onCore c s fun d _ _ => badInstruction d c

/-- An operation that only writes xd. -/
def writeX (c : Nat) (f : Fields) (s : State) (v : Core → Word) : Host.Outcome State Fault Refusal :=
  onCore c s fun d k _ => retire d c (setX k f.rd (v k))

/-- xs1 and xs2. -/
def xs1 (k : Core) (f : Fields) : Word := getX k f.rs1
def xs2 (k : Core) (f : Fields) : Word := getX k f.rs2

/-- A shift count, xs2[5:0]. -/
def shamt (k : Core) (f : Fields) : Nat := (xs2 k f).toNat % 64

def execAddi (c : Nat) (f : Fields) (s : State) : Host.Outcome State Fault Refusal := writeX c f s fun k => xs1 k f + simm f
def execAdd (c : Nat) (f : Fields) (s : State) : Host.Outcome State Fault Refusal := writeX c f s fun k => xs1 k f + xs2 k f
def execSub (c : Nat) (f : Fields) (s : State) : Host.Outcome State Fault Refusal := writeX c f s fun k => xs1 k f - xs2 k f
def execMul (c : Nat) (f : Fields) (s : State) : Host.Outcome State Fault Refusal := writeX c f s fun k => xs1 k f * xs2 k f
def execAnd (c : Nat) (f : Fields) (s : State) : Host.Outcome State Fault Refusal := writeX c f s fun k => xs1 k f &&& xs2 k f
def execOr (c : Nat) (f : Fields) (s : State) : Host.Outcome State Fault Refusal := writeX c f s fun k => xs1 k f ||| xs2 k f
def execXor (c : Nat) (f : Fields) (s : State) : Host.Outcome State Fault Refusal := writeX c f s fun k => xs1 k f ^^^ xs2 k f
def execShl (c : Nat) (f : Fields) (s : State) : Host.Outcome State Fault Refusal := writeX c f s fun k => xs1 k f <<< shamt k f
def execShr (c : Nat) (f : Fields) (s : State) : Host.Outcome State Fault Refusal := writeX c f s fun k => xs1 k f >>> shamt k f
def execSra (c : Nat) (f : Fields) (s : State) : Host.Outcome State Fault Refusal :=
  writeX c f s fun k => (xs1 k f).sshiftRight (shamt k f)
def execSlt (c : Nat) (f : Fields) (s : State) : Host.Outcome State Fault Refusal :=
  writeX c f s fun k => if (xs1 k f).slt (xs2 k f) then 1 else 0
def execSltu (c : Nat) (f : Fields) (s : State) : Host.Outcome State Fault Refusal :=
  writeX c f s fun k => if (xs1 k f).ult (xs2 k f) then 1 else 0

/-- LIH: IMM above xs1[31:0]. -/
def execLih (c : Nat) (f : Fields) (s : State) : Host.Outcome State Fault Refusal :=
  writeX c f s fun k => f.imm ++ (xs1 k f).extractLsb' 0 32

/-- A load of `n` bytes, aligned to `n`, zero-extended; it waits for a queued vector instruction that uses its word (R181). -/
def loadX (n : Nat) (c : Nat) (f : Fields) (s : State) : Host.Outcome State Fault Refusal :=
  onCoreMem 8 c s fun d k i =>
    if usedByQueue k (xs1 k f + simm f) then d
    else withAcc c false (operandRead d i.ctx c (xs1 k f + simm f) n n) fun bs d => retireX d c f.rd (BitVec.ofNat 64 (leNat bs))

/-- A store of `n` bytes of xs2, aligned to `n`; it waits for a queued vector instruction that uses its word (R181). -/
def storeX (n : Nat) (c : Nat) (f : Fields) (s : State) : Host.Outcome State Fault Refusal :=
  onCoreMem 8 c s fun d k i =>
    if usedByQueue k (xs1 k f + simm f) then d
    else withAcc c true (operandWrite d i.ctx c (xs1 k f + simm f) (toLE n (xs2 k f).toNat) n) fun _ d => retireDev d c

def execLd (c : Nat) (f : Fields) (s : State) : Host.Outcome State Fault Refusal := loadX 8 c f s
def execLdw (c : Nat) (f : Fields) (s : State) : Host.Outcome State Fault Refusal := loadX 4 c f s
def execSt (c : Nat) (f : Fields) (s : State) : Host.Outcome State Fault Refusal := storeX 8 c f s
def execStw (c : Nat) (f : Fields) (s : State) : Host.Outcome State Fault Refusal := storeX 4 c f s

/-- A branch: PC + 8 × imm when the condition holds. -/
def branch (c : Nat) (f : Fields) (s : State) (cond : Core → Bool) : Host.Outcome State Fault Refusal :=
  onCore c s fun d k _ => coreSet d c { k with pc := if cond k then k.pc + 8 * simm f else k.pc + 8 }

def execBeq (c : Nat) (f : Fields) (s : State) : Host.Outcome State Fault Refusal :=
  branch c f s fun k => decide (xs1 k f = xs2 k f)
def execBne (c : Nat) (f : Fields) (s : State) : Host.Outcome State Fault Refusal :=
  branch c f s fun k => decide (xs1 k f ≠ xs2 k f)
def execBlt (c : Nat) (f : Fields) (s : State) : Host.Outcome State Fault Refusal :=
  branch c f s fun k => (xs1 k f).slt (xs2 k f)
def execBge (c : Nat) (f : Fields) (s : State) : Host.Outcome State Fault Refusal :=
  branch c f s fun k => !(xs1 k f).slt (xs2 k f)

/-- JAL: the link to xd, then PC + 8 × imm. -/
def execJal (c : Nat) (f : Fields) (s : State) : Host.Outcome State Fault Refusal :=
  onCore c s fun d k _ => coreSet d c { setX k f.rd (k.pc + 8) with pc := k.pc + 8 * simm f }

/-- JR: a target that is no multiple of 8 is refused with BAD_ADDRESS, and PC does not change (R194). -/
def execJr (c : Nat) (f : Fields) (s : State) : Host.Outcome State Fault Refusal :=
  onCore c s fun d k _ =>
    if (xs1 k f).toNat % 8 ≠ 0 then badAddress d c else coreSet d c { k with pc := xs1 k f }

/-- The lines of a context that a cluster's cache holds in a range of addresses. -/
def linesIn (d : Dev) (x cl va n : Nat) : List Nat :=
  ((clusterOf d cl).cache.filter fun e => decide (0 < n) && decide (va < 64 * e.1 + 64) && decide (64 * e.1 < va + n) &&
    (match e.2 with | some v => decide (v.ctx = x) | none => false)).map (·.1)

/-- A cache operation on every line from xs1 for xs2 bytes (R194, R154); xs1 names device virtual memory (log entry 27, DEDUCED). -/
def cacheOp (c : Nat) (f : Fields) (s : State) (op : Dev → Nat → Dev) : Host.Outcome State Fault Refusal :=
  onCore c s fun d k i =>
    match placeOf (xs1 k f) with
    | some (.va a) => retireDev ((linesIn d i.ctx (clOf c) a (xs2 k f).toNat).foldl op d) c
    | _ => badAddress d c

def execCwb (c : Nat) (f : Fields) (s : State) : Host.Outcome State Fault Refusal := cacheOp c f s fun d l => cleanLine d (clOf c) l
def execCinv (c : Nat) (f : Fields) (s : State) : Host.Outcome State Fault Refusal :=
  cacheOp c f s fun d l => dropLine d (clOf c) l false
def execCwbinv (c : Nat) (f : Fields) (s : State) : Host.Outcome State Fault Refusal :=
  cacheOp c f s fun d l => dropLine d (clOf c) l true

/-- FLAGS: the task's flag word (R64, R65, R194), once the vector queue is empty (R181). Log entry 28, DEDUCED. -/
def execFlags (c : Nat) (f : Fields) (s : State) : Host.Outcome State Fault Refusal :=
  onCoreDrained c s fun d k i => retire d c (setX k f.rd ((taskFlags d i.ctx i.task).setWidth 64))

/-- CYCLE: core cycles since the run started (R194). -/
def execCycle (c : Nat) (f : Fields) (s : State) : Host.Outcome State Fault Refusal :=
  writeX c f s fun k => BitVec.ofNat 64 (k.halfCycles / 2)

/-- OTIME: orchard time (R194, R324). -/
def execOtime (c : Nat) (f : Fields) (s : State) : Host.Outcome State Fault Refusal :=
  onCore c s fun d k _ => retire d c (setX k f.rd d.otime.count)

/-- END completes the run (R194, R211), once every vector instruction has completed (R182). -/
def execEndInst (c : Nat) (_f : Fields) (s : State) : Host.Outcome State Fault Refusal := onCoreDrained c s fun d _ _ => stopInst d c

end Sys2Proof.Machine
end

