-- ==== Sys2Proof/Machine/Special.lean ====
section
/-! DEFINITION. The special functions of R188: 0 VEXP, 1 VLOG, 2 VRSQRT, 3 VTANH, 4 VSIGM. Where R188 states the result it stands here;
elsewhere R188 bounds it in units in the last place of the correctly rounded result, which is computed here in fixed point. -/

namespace Sys2Proof.Machine

/-! ### Correctly rounded results -/

/-- 1 in fixed point: 320 fraction bits. -/
def fxOne : Nat := 2 ^ 320

/-- Σ rⁱ/i! by Horner's rule, `n` terms from i = `k` on. -/
def expTail (r : Nat) : Nat → Nat → Nat
  | 0, _ => fxOne
  | n + 1, k => fxOne + r * expTail r n (k + 1) / (k * fxOne)

/-- Squares `n` times. -/
def fxSquare : Nat → Nat → Nat
  | 0, t => t
  | n + 1, t => fxSquare n (t * t / fxOne)

/-- |v| in fixed point. -/
def fxAbs (v : Dy) : Nat := shl2 v.m (v.e + 320) |>.natAbs

/-- e^(a/2^320): the power of a/4,096, squared 12 times. -/
def fxExp (a : Nat) : Nat := fxSquare 12 (expTail (a / 4096) 40 1)

/-- Σ z^(2i)/(2i + 1) by Horner's rule, `n` terms from i = `k` on; `z2` is z². -/
def atanhTail (z2 : Nat) : Nat → Nat → Nat
  | 0, _ => 0
  | n + 1, k => fxOne / (2 * k + 1) + z2 * atanhTail z2 n (k + 1) / fxOne

/-- 2·atanh(a/b) for a/b up to 1/3: the logarithm of (b + a)/(b − a). -/
def fxLogRatio (a b : Nat) : Nat :=
  let z := a * fxOne / b
  2 * z * atanhTail (z * z / fxOne) 110 0 / fxOne

/-- ln(m·2^e) for m above 0. -/
def fxLog (m : Nat) (e : Int) : Int :=
  let b := Nat.log2 m
  (e + b) * (fxLogRatio 1 3 : Int) + fxLogRatio (m - 2 ^ b) (m + 2 ^ b)

/-- The exact value of each function but for bits far below any rounding position. -/
def specialDy (fn : Nat) (v : Dy) : Dy :=
  let ratio (a b : Nat) : Dy := stickyQuot (a * 2 ^ 160) b (-160)
  match fn with
  | 0 => if v.isNeg then ratio fxOne (fxExp (fxAbs v)) else ⟨fxExp (fxAbs v), -320⟩
  | 1 => ⟨2 * fxLog v.m.natAbs v.e + 1, -321⟩
  | 2 =>
    let m := if v.e % 2 = 0 then v.m.natAbs else 2 * v.m.natAbs
    let e := if v.e % 2 = 0 then v.e else v.e - 1
    ⟨2 * (isqrtBits 200 (2 ^ 400 / m) 0 : Nat) + 1, -201 - e / 2⟩
  | 3 =>
    let q := fxExp (2 * fxAbs v)
    let r := ratio (q - fxOne) (q + fxOne)
    if v.isNeg then r.neg else r
  | _ =>
    let q := fxExp (fxAbs v)
    if v.isNeg then ratio fxOne (q + fxOne) else ratio q (q + fxOne)

/-- The error bound of R188, in units in the last place. -/
def ulpBound (fn : Nat) : Nat := [2, 2, 1, 3, 3].getD fn 0

/-- The code `k` units in the last place away from a code in magnitude, within zero and infinity. -/
def ulpsAway (c : W32) (k : Int) : W32 :=
  let m := max 0 (min 0x7F800000 ((c.toNat % 2 ^ 31 : Nat) + k))
  BitVec.ofNat 32 (m.toNat + (if c.msb then 2 ^ 31 else 0))

/-- A result that R188 bounds but does not fix: any one within the bound of the correctly rounded result, the reference routine's
choice (log entry 20, DESIGN CHOICE); always NX. -/
def freeResult (fn : Nat) (w : W32) (v : Dy) (uf of_ : Bool) : W32 × Half :=
  let b := ulpBound fn
  let cr := (f32Round .rne false v).1
  let r := ulpsAway cr ((Config.ulps fn w % (2 * b + 1) : Nat) - (b : Int))
  let m := r.toNat % 2 ^ 31
  (r, fNX ||| flagIf (uf && decide (m < 2 ^ 23)) fUF ||| flagIf (of_ && decide (m = 0x7F800000)) fOF)

/-! ### The functions -/

/-- Compares a finite binary32 value with n/10,000. -/
def gt4 (v : Dy) (n : Int) : Bool := (Dy.ofInt n).lt (v.mul (Dy.ofInt 10000))

/-- Whether a value is 4^n exactly, and the code of 2^−n. -/
def powerOf4 (v : Dy) : Option W32 :=
  let l := v.ilog2
  if 0 < v.m ∧ !(Dy.pow2 l).lt v ∧ !v.lt (Dy.pow2 l) ∧ l % 2 = 0 then some (f32Round .rne false (Dy.pow2 (-(l / 2)))).1 else none

/-- The special functions (R188). A VSIGM below −104 lies below every subnormal (log entry 59, DEDUCED). -/
def special (fn : Nat) (w : W32) : W32 × Half :=
  match f32Unpack w with
  | .nan _ => (qNaN, fNR)
  | .inf neg => (match fn with
    | 0 => (if neg then 0 else f32Inf false, 0)
    | 1 => if neg then (qNaN, fNR) else (f32Inf false, 0)
    | 2 => if neg then (qNaN, fNR) else (0, 0)
    | 3 => (if neg then 0xBF800000 else 0x3F800000, 0)
    | _ => (if neg then 0 else 0x3F800000, 0))
  | .fin neg m e =>
    let v := Fp.dy (.fin neg m e)
    match fn with
    | 0 => if m = 0 then (0x3F800000, 0)
      else if gt4 v 887228 then (f32Inf false, fOF ||| fNX)
      else if gt4 v.neg 1039721 then (0, fUF ||| fNX)
      else freeResult 0 w (specialDy 0 v) true true
    | 1 => if m = 0 then (f32Inf true, fOF)
      else if neg then (qNaN, fNR)
      else if w = 0x3F800000 then (0, 0)
      else freeResult 1 w (specialDy 1 v) false false
    | 2 => if m = 0 then (f32Inf neg, fOF)
      else if neg then (qNaN, fNR)
      else (match powerOf4 v with
        | some r => (r, 0)
        | none => freeResult 2 w (specialDy 2 v) false false)
    | 3 => if m = 0 then (w, 0)
      else if !(v.abs.mul (Dy.ofInt 10000)).lt (Dy.ofInt 90109) then (if neg then 0xBF800000 else 0x3F800000, fNX)
      else freeResult 3 w (specialDy 3 v) false false
    | _ => if m = 0 then (0x3F000000, 0)
      else if !(v.mul (Dy.ofInt 10000)).lt (Dy.ofInt 166355) then (0x3F800000, fNX)
      else freeResult 4 w (if gt4 v.neg 1040000 then Dy.zero else specialDy 4 v) true false

end Sys2Proof.Machine
end

