-- ==== Sys2Proof/Machine/VectorOps.lean ====
section
/-! DEFINITION. Vector arithmetic of R195: element-wise operations, comparisons, conversions, special functions, reductions, VADAMW. -/

namespace Sys2Proof.Machine

/-- Width of an element type: 0 f32, 1 f8, 2 i16, 3 i32, 4 the A24 container (R184, R428). -/
def tyWidth (ty : Nat) : Nat := if ty = 1 then 8 else if ty = 2 then 16 else 32

/-- Elements of a register (R184). -/
def tyCount (ty : Nat) : Nat := 4096 / tyWidth ty

/-- The lane of element `e`, and its place in that lane. -/
def elLane (w e : Nat) : Nat := e * w / 32
def elPlace (w e : Nat) : Nat := e % (32 / w)

/-- A vector instruction that writes a register element by element: `g e` is the new element and its flags. Disabled lanes keep theirs
and set no flag (R183); RM 4 steps the lane LFSRs when the operation rounds by RM (R186). -/
def writeElems (d : Dev) (c : Nat) (f : Fields) (i : Inst) (w : Nat) (rounds : Bool) (g : Nat → Nat × Half) : Dev :=
  let k := coreOf d c
  let p := predOf k f
  let n := 4096 / w
  let old := getV k f.rd
  let new := packElems w n fun e => if on p (elLane w e) then (g e).1 else elemOf old w e
  let fl := (List.range n).foldl (fun a e => if on p (elLane w e) then a ||| (g e).2 else a) (0 : Half)
  let lf := if rounds && decide (f.rm = 4) then lanesAfter k.lfsr fun _ => 32 / w else k.lfsr
  coreUpd (raise d i.ctx i.task c fl) c fun k => { setV k f.rd new with lfsr := lf, pc := k.pc + 8 }

/-- Two's complement value of a code of `w` bits. -/
def sint (w n : Nat) : Int := if n < 2 ^ (w - 1) then n else (n : Int) - 2 ^ w

/-- The code of an integer modulo 2^w. -/
def ucode (w : Nat) (v : Int) : Nat := (v % 2 ^ w).toNat

/-- An exact i16 or i32 result: i16 saturates with OF, i32 wraps (R184). -/
def intResult (ty : Nat) (v : Int) : Nat × Half :=
  if ty = 2 then
    (if v < -32768 then (ucode 16 (-32768), fOF) else if 32767 < v then (32767, fOF) else (ucode 16 v, 0))
  else (ucode 32 v, 0)

/-- An exact f8 result rounded once; NaR propagates with NR (R34, R184). -/
def f8Result (mode : RMode) (v : Val) : Nat × Half :=
  match v with
  | .nar => (f8NaR.toNat, fNR)
  | .num m e => let r := f8Round mode ⟨m, e⟩; (r.1.toNat, r.2)

/-- Whether RM and TYPE are legal for an element-wise operation (R180). Log entry 58, DEDUCED. -/
def rmOk (f : Fields) : Bool := decide (f.rm.toNat ≤ 4)
def tyOk (f : Fields) : Bool := decide (f.ty.toNat ≤ 3)

/-- The rounding of element `e` (R186). -/
def elMode (k : Core) (f : Fields) (w e : Nat) : RMode :=
  (rmode f.rm (laneRandom k.lfsr (elLane w e) (elPlace w e))).getD .rne

/-- An element-wise operation of two or three sources by TYPE: binary32, exact f8 values, exact integers (R184). -/
def elementwise (c : Nat) (f : Fields) (f32 : RMode → W32 → W32 → W32 → W32 × Half) (f8 : Val → Val → Val → Val)
    (int : Int → Int → Int → Int) (d : Dev) (k : Core) (i : Inst) : Dev :=
  if !rmOk f ∨ !tyOk f then badInstruction d c
  else
    let ty := f.ty.toNat
    let w := tyWidth ty
    let a := getV k f.rs1
    let b := getV k f.rs2
    let z := getV k (rs3 f)
    writeElems d c f i w true fun e =>
      let x := elemOf a w e
      let y := elemOf b w e
      let q := elemOf z w e
      match ty with
      | 0 => let r := f32 (elMode k f w e) (BitVec.ofNat 32 x) (BitVec.ofNat 32 y) (BitVec.ofNat 32 q); (r.1.toNat, r.2)
      | 1 => f8Result (elMode k f w e) (f8 (f8Val (BitVec.ofNat 8 x)) (f8Val (BitVec.ofNat 8 y)) (f8Val (BitVec.ofNat 8 q)))
      | _ => intResult ty (int (sint w x) (sint w y) (sint w q))

def Val.neg (v : Val) : Val := match v with | .nar => .nar | .num m e => .num (-m) e

def goVadd (c : Nat) (f : Fields) : Dev → Core → Inst → Dev :=
  elementwise c f (fun m a b _ => f32Add m a b) (fun a b _ => a.add b) (fun a b _ => a + b)
def execVadd (c : Nat) (f : Fields) (s : State) : Host.Outcome State Fault Refusal := onVector false (.vadd c f) c s (goVadd c f)
def goVsub (c : Nat) (f : Fields) : Dev → Core → Inst → Dev :=
  elementwise c f (fun m a b _ => f32Sub m a b) (fun a b _ => a.add b.neg) (fun a b _ => a - b)
def execVsub (c : Nat) (f : Fields) (s : State) : Host.Outcome State Fault Refusal := onVector false (.vsub c f) c s (goVsub c f)
def goVmul (c : Nat) (f : Fields) : Dev → Core → Inst → Dev :=
  elementwise c f (fun m a b _ => f32Mul m a b) (fun a b _ => a.mul b) (fun a b _ => a * b)
def execVmul (c : Nat) (f : Fields) (s : State) : Host.Outcome State Fault Refusal := onVector false (.vmul c f) c s (goVmul c f)
def goVfma (c : Nat) (f : Fields) : Dev → Core → Inst → Dev :=
  elementwise c f (fun m a b z => f32Fma m a b z) (fun a b z => (a.mul b).add z) (fun a b z => a * b + z)
def execVfma (c : Nat) (f : Fields) (s : State) : Host.Outcome State Fault Refusal := onVector false (.vfma c f) c s (goVfma c f)

/-- An f32-only operation that rounds by RM. -/
def f32Only (c : Nat) (f : Fields) (op : RMode → W32 → W32 → W32 × Half) (d : Dev) (k : Core) (i : Inst) : Dev :=
  if !rmOk f ∨ f.ty ≠ 0 then badInstruction d c
  else writeElems d c f i 32 true fun e => let r := op (elMode k f 32 e) (lane (getV k f.rs1) e) (lane (getV k f.rs2) e); (r.1.toNat, r.2)

def goVdiv (c : Nat) (f : Fields) : Dev → Core → Inst → Dev :=
  f32Only c f f32Div
def execVdiv (c : Nat) (f : Fields) (s : State) : Host.Outcome State Fault Refusal := onVector false (.vdiv c f) c s (goVdiv c f)
def goVsqrt (c : Nat) (f : Fields) : Dev → Core → Inst → Dev :=
  f32Only c f fun m a _ => f32Sqrt m a
def execVsqrt (c : Nat) (f : Fields) (s : State) : Host.Outcome State Fault Refusal := onVector false (.vsqrt c f) c s (goVsqrt c f)

/-- a < b of f8 values that are not NaR. -/
def Val.lt (a b : Val) : Bool :=
  match a, b with
  | .num m e, .num n k => Dy.lt ⟨m, e⟩ ⟨n, k⟩
  | _, _ => false

/-- Maximum or minimum of two elements by TYPE (R185). -/
def maxMin (isMax : Bool) (ty x y : Nat) : Nat × Half :=
  match ty with
  | 0 => let r := f32MaxMin isMax (BitVec.ofNat 32 x) (BitVec.ofNat 32 y); (r.1.toNat, r.2)
  | 1 =>
    let a := f8Val (BitVec.ofNat 8 x)
    let b := f8Val (BitVec.ofNat 8 y)
    if a = .nar ∨ b = .nar then (f8NaR.toNat, fNR) else if a.lt b = isMax then (y, 0) else (x, 0)
  | _ =>
    let w := tyWidth ty
    if decide (sint w x < sint w y) = isMax then (y, 0) else (x, 0)

def extremum (isMax : Bool) (c : Nat) (f : Fields) (d : Dev) (k : Core) (i : Inst) : Dev :=
  if !tyOk f then badInstruction d c
  else
    let w := tyWidth f.ty.toNat
    writeElems d c f i w false fun e => maxMin isMax f.ty.toNat (elemOf (getV k f.rs1) w e) (elemOf (getV k f.rs2) w e)

def goVmax (c : Nat) (f : Fields) : Dev → Core → Inst → Dev :=
  extremum true c f
def execVmax (c : Nat) (f : Fields) (s : State) : Host.Outcome State Fault Refusal := onVector false (.vmax c f) c s (goVmax c f)
def goVmin (c : Nat) (f : Fields) : Dev → Core → Inst → Dev :=
  extremum false c f
def execVmin (c : Nat) (f : Fields) (s : State) : Host.Outcome State Fault Refusal := onVector false (.vmin c f) c s (goVmin c f)

/-- A comparison, 0 eq, 1 lt, 2 le, 3 ne, by TYPE (R185, R195). -/
def compare (op ty x y : Nat) : Bool × Half :=
  match ty with
  | 0 => f32Cmp op (BitVec.ofNat 32 x) (BitVec.ofNat 32 y)
  | 1 =>
    let a := f8Val (BitVec.ofNat 8 x)
    let b := f8Val (BitVec.ofNat 8 y)
    if a = .nar ∨ b = .nar then (decide (op = 3), 0)
    else (match op with
      | 0 => !a.lt b && !b.lt a
      | 1 => a.lt b
      | 2 => !b.lt a
      | _ => a.lt b || b.lt a, 0)
  | _ =>
    let a := sint (tyWidth ty) x
    let b := sint (tyWidth ty) y
    (match op with
      | 0 => decide (a = b)
      | 1 => decide (a < b)
      | 2 => decide (a ≤ b)
      | _ => decide (a ≠ b), 0)

/-- VCMP: predicate bit l from lane l, for f8 and i16 from its lowest element; RD[2:0] names the predicate (R179, R195). -/
def goVcmp (c : Nat) (f : Fields) (d : Dev) (k : Core) (i : Inst) : Dev :=
  if !tyOk f then badInstruction d c
  else
    let w := tyWidth f.ty.toNat
    let p := predOf k f
    let r (l : Nat) : Bool × Half := compare (immBits f 1 0) f.ty.toNat (elemOf (getV k f.rs1) w (l * (32 / w))) (elemOf (getV k f.rs2) w (l * (32 / w)))
    let pd := f.rd.setWidth 3
    let old := getP k pd
    let new := BitVec.ofNat 128 (packNat 1 (fun l => b2n (if on p l then (r l).1 else on old l)) 128)
    let fl := (List.range 128).foldl (fun a l => if on p l then a ||| (r l).2 else a) (0 : Half)
    coreUpd (raise d i.ctx i.task c fl) c fun k => { setP k pd new with pc := k.pc + 8 }

def execVcmp (c : Nat) (f : Fields) (s : State) : Host.Outcome State Fault Refusal := onVector false (.vcmp c f) c s (goVcmp c f)

/-- A lane operation with no flags, whatever TYPE and RM read. -/
def laneOp (c : Nat) (f : Fields) (g : Core → Nat → Nat) (d : Dev) (k : Core) (i : Inst) : Dev :=
  writeElems d c f i 32 false fun l => (g k l, 0)

def goVbcast (c : Nat) (f : Fields) : Dev → Core → Inst → Dev :=
  laneOp c f fun k _ => (getX k f.rs1).toNat % 2 ^ 32
def execVbcast (c : Nat) (f : Fields) (s : State) : Host.Outcome State Fault Refusal := onVector false (.vbcast c f) c s (goVbcast c f)

/-- VSEL: lane = p(IMM[2:0]) ? vs1 : vs2. -/
def goVsel (c : Nat) (f : Fields) : Dev → Core → Inst → Dev :=
  laneOp c f fun k l =>
    if on (getP k (f.imm.setWidth 3)) l then elemOf (getV k f.rs1) 32 l else elemOf (getV k f.rs2) 32 l
def execVsel (c : Nat) (f : Fields) (s : State) : Host.Outcome State Fault Refusal := onVector false (.vsel c f) c s (goVsel c f)

/-- VLOGIC: AND, OR, XOR, ANDN by IMM[1:0]; ANDN clears in vs1 the bits of vs2 (log entry 34, DEDUCED). -/
def goVlogic (c : Nat) (f : Fields) : Dev → Core → Inst → Dev :=
  laneOp c f fun k l =>
    let a := lane (getV k f.rs1) l
    let b := lane (getV k f.rs2) l
    (match immBits f 1 0 with
      | 0 => a &&& b
      | 1 => a ||| b
      | 2 => a ^^^ b
      | _ => a &&& ~~~b).toNat
def execVlogic (c : Nat) (f : Fields) (s : State) : Host.Outcome State Fault Refusal := onVector false (.vlogic c f) c s (goVlogic c f)

/-- VMOVX: xd = lane IMM[6:0] of vs1, zero-extended; it waits until the vector queue is empty (R181). -/
def execVmovx (c : Nat) (f : Fields) (s : State) : Host.Outcome State Fault Refusal :=
  onCoreDrained c s fun d k _ => retire d c (setX k f.rd ((lane (getV k f.rs1) (immBits f 6 0)).setWidth 64))

/-! ### Conversions (R428, R35, R41) -/

/-- The exact value of an element of a source type. -/
def srcVal (ty n : Nat) : Val :=
  match ty with
  | 0 => f32Val (BitVec.ofNat 32 n)
  | 1 => f8Val (BitVec.ofNat 8 n)
  | _ => .num (sint (tyWidth ty) n) 0

/-- Limits of an integer type. -/
def tyLo (ty : Nat) : Int := if ty = 2 then -32768 else -2147483648
def tyHi (ty : Nat) : Int := if ty = 2 then 32767 else 2147483647

/-- The rounding of a conversion from binary32 to F8: to nearest, unless it is stochastic (R35; log entry 133, DEDUCED). -/
def nearestOrSr (mode : RMode) : RMode :=
  match mode with
  | .sr r => .sr r
  | _ => .rne

/-- Converts an element from type `a` to type `b` (R195, R428). The A24 container rounds to nearest (R41; log entry 35, DEDUCED). -/
def convert (mode : RMode) (ftz : Bool) (a b n : Nat) : Nat × Half :=
  match a, b with
  | 0, 0 => if (f32Unpack (BitVec.ofNat 32 n)).isNaN then (qNaN.toNat, fNR) else (n, 0)
  | 0, 1 => let r := f32ToF8 (nearestOrSr mode) (BitVec.ofNat 32 n); (r.1.toNat, r.2)
  | 0, 4 => let r := f32ToA24 ftz (BitVec.ofNat 32 n); (r.1.toNat * 256, r.2)
  | 0, _ => let r := f32ToInt mode (tyLo b) (tyHi b) (BitVec.ofNat 32 n); (ucode (tyWidth b) r.1, r.2)
  | 1, 0 => (match f8Val (BitVec.ofNat 8 n) with
    | .nar => (qNaN.toNat, fNR)
    | v => ((valToF32 v).toNat, 0))
  | 1, 1 => if f8Val (BitVec.ofNat 8 n) = .nar then (n, fNR) else (n, 0)
  | 1, 4 => let r := (f8Val (BitVec.ofNat 8 n)).toA24 ftz; (r.1.toNat * 256, r.2)
  | 1, _ => (match f8Val (BitVec.ofNat 8 n) with
    | .nar => (0, fNR)
    | .num m e => let r := intRound mode (tyLo b) (tyHi b) ⟨m, e⟩; (ucode (tyWidth b) r.1, r.2))
  | _, 0 => let r := f32Round mode false (Dy.ofInt (sint (tyWidth a) n)); (r.1.toNat, r.2)
  | _, 1 => let r := f8Round mode (Dy.ofInt (sint (tyWidth a) n)); (r.1.toNat, r.2)
  | _, 4 => let r := a24Round ftz (Dy.ofInt (sint (tyWidth a) n)); (r.1.toNat * 256, r.2)
  | _, _ =>
    let v := sint (tyWidth a) n
    if b = 2 then (if v < -32768 then (ucode 16 (-32768), fOF) else if 32767 < v then (32767, fOF) else (ucode 16 v, 0))
    else (ucode 32 v, 0)

/-- VCVT (R195, R428). -/
def goVcvt (c : Nat) (f : Fields) (d : Dev) (k : Core) (i : Inst) : Dev :=
  let a := f.ty.toNat
  let b := immBits f 2 0
  if !rmOk f ∨ !tyOk f ∨ 4 < b then badInstruction d c
  else
    let wa := tyWidth a
    let wb := tyWidth b
    let n := 4096 / max wa wb
    let part := immBits f 4 3 % (max wa wb / min wa wb)
    let si (e : Nat) : Nat := if wa < wb then part * n + e else e
    let p := predOf k f
    let src := getV k f.rs1
    let old := getV k f.rd
    let g (e : Nat) : Nat × Half :=
      convert ((rmode f.rm (laneRandom k.lfsr (elLane wa (si e)) (elPlace wa (si e)))).getD .rne) i.ftz a b (elemOf src wa (si e))
    -- element e of the destination register, when it is written
    let de (t : Nat) : Option Nat := if wb < wa then (if part * n ≤ t ∧ t < part * n + n then some (t - part * n) else none) else some t
    let new := packElems wb (4096 / wb) fun t => match de t with
      | some e => if on p (elLane wa (si e)) then (g e).1 else elemOf old wb t
      | none => elemOf old wb t
    let fl := (List.range n).foldl (fun a e => if on p (elLane wa (si e)) then a ||| (g e).2 else a) (0 : Half)
    let steps (l : Nat) : Nat :=
      if (List.range (32 / wa)).all fun j => decide (si 0 ≤ l * (32 / wa) + j) && decide (l * (32 / wa) + j < si 0 + n) then 32 / wa else 0
    let lf := if f.rm = 4 then lanesAfter k.lfsr steps else k.lfsr
    coreUpd (raise d i.ctx i.task c fl) c fun k => { setV k f.rd new with lfsr := lf, pc := k.pc + 8 }

def execVcvt (c : Nat) (f : Fields) (s : State) : Host.Outcome State Fault Refusal := onVector false (.vcvt c f) c s (goVcvt c f)

/-! ### Special functions (R188) -/

/-- A special function of every enabled lane; f32 only. -/
def specialOp (fn : Nat) (c : Nat) (f : Fields) (d : Dev) (k : Core) (i : Inst) : Dev :=
  if f.ty ≠ 0 then badInstruction d c
  else writeElems d c f i 32 false fun l => let r := special fn (lane (getV k f.rs1) l); (r.1.toNat, r.2)

def goVexp (c : Nat) (f : Fields) : Dev → Core → Inst → Dev :=
  specialOp 0 c f
def execVexp (c : Nat) (f : Fields) (s : State) : Host.Outcome State Fault Refusal := onVector false (.vexp c f) c s (goVexp c f)
def goVlog (c : Nat) (f : Fields) : Dev → Core → Inst → Dev :=
  specialOp 1 c f
def execVlog (c : Nat) (f : Fields) (s : State) : Host.Outcome State Fault Refusal := onVector false (.vlog c f) c s (goVlog c f)
def goVrsqrt (c : Nat) (f : Fields) : Dev → Core → Inst → Dev :=
  specialOp 2 c f
def execVrsqrt (c : Nat) (f : Fields) (s : State) : Host.Outcome State Fault Refusal := onVector false (.vrsqrt c f) c s (goVrsqrt c f)
def goVtanh (c : Nat) (f : Fields) : Dev → Core → Inst → Dev :=
  specialOp 3 c f
def execVtanh (c : Nat) (f : Fields) (s : State) : Host.Outcome State Fault Refusal := onVector false (.vtanh c f) c s (goVtanh c f)
def goVsigm (c : Nat) (f : Fields) : Dev → Core → Inst → Dev :=
  specialOp 4 c f
def execVsigm (c : Nat) (f : Fields) (s : State) : Host.Outcome State Fault Refusal := onVector false (.vsigm c f) c s (goVsigm c f)

/-! ### Reductions (R189) -/

/-- One level of the tree: an absent partner passes the other unchanged. -/
def reduceLevel (op : W32 → W32 → W32 × Half) : List (Option W32) → List (Option W32) × Half
  | a :: b :: r =>
    let (t, fl) := reduceLevel op r
    match a, b with
    | some x, some y => let z := op x y; (some z.1 :: t, fl ||| z.2)
    | some x, none => (some x :: t, fl)
    | none, y => (y :: t, fl)
  | l => (l, 0)

/-- `n` levels. -/
def reduceTree (op : W32 → W32 → W32 × Half) : Nat → List (Option W32) → List (Option W32) × Half
  | 0, l => (l, 0)
  | n + 1, l =>
    let (t, f1) := reduceLevel op l
    let (u, f2) := reduceTree op n t
    (u, f1 ||| f2)

/-- The result of a reduction: a NaN, one that passed unchanged too, is the canonical one and sets NR (R53, R425; log entry 134, DEDUCED). -/
def reduced (v : W32) (fl : Half) : W32 × Half := if (f32Unpack v).isNaN then (qNaN, fl ||| fNR) else (v, fl)

/-- A reduction: the result in lane 0, +0 in the others; `absent` is how a disabled lane enters. -/
def reduction (op : W32 → W32 → W32 × Half) (absent : Option W32) (c : Nat) (f : Fields) (d : Dev) (k : Core) (i : Inst) : Dev :=
  if f.ty ≠ 0 then badInstruction d c
  else
    let p := predOf k f
    let (r, fl) := reduceTree op 7 ((List.range 128).map fun l => if on p l then some (lane (getV k f.rs1) l) else absent)
    let (v, fl) := if p = 0 then (0, fl) else reduced ((r.headD none).getD 0) fl
    coreUpd (raise d i.ctx i.task c fl) c fun k => { setV k f.rd (BitVec.ofNat 4096 v.toNat) with pc := k.pc + 8 }

def goVrsum (c : Nat) (f : Fields) : Dev → Core → Inst → Dev :=
  reduction (f32Add .rne) (some 0) c f
def execVrsum (c : Nat) (f : Fields) (s : State) : Host.Outcome State Fault Refusal := onVector false (.vrsum c f) c s (goVrsum c f)
def goVrmax (c : Nat) (f : Fields) : Dev → Core → Inst → Dev :=
  reduction (f32MaxMin true) none c f
def execVrmax (c : Nat) (f : Fields) (s : State) : Host.Outcome State Fault Refusal := onVector false (.vrmax c f) c s (goVrmax c f)
def goVrmin (c : Nat) (f : Fields) : Dev → Core → Inst → Dev :=
  reduction (f32MaxMin false) none c f
def execVrmin (c : Nat) (f : Fields) (s : State) : Host.Outcome State Fault Refusal := onVector false (.vrmin c f) c s (goVrmin c f)

/-! ### The optimiser update (R192, R193) -/

/-- An optimiser descriptor. -/
structure AdamDesc where
  w : Nat
  m : Nat
  v : Nat
  g : Nat
  q : Nat
  count : Nat
  lr : W32
  b1 : W32
  b2 : W32
  eps : W32
  wd : W32
  bc1 : W32
  bc2 : W32
  fmt : Nat
  t : Nat
  full : Bool
  deriving DecidableEq, Repr

/-- Reads an optimiser descriptor (R192). -/
def parseAdam (b : List Byte) : AdamDesc :=
  let f (o : Nat) : W32 := BitVec.ofNat 32 (fld b o 4)
  let e := fld b 52 1
  ⟨fld b 0 4, fld b 4 4, fld b 8 4, fld b 12 4, fld b 16 4, fld b 20 4, f 24, f 28, f 32, f 36, f 40, f 44, f 48, e % 4,
    bits e 4 2, bit e 5⟩

/-- Whether an optimiser descriptor keeps R192; a block tensor's base is a multiple of 64 (R49). -/
def adamOk (d : Dev) (c : Nat) (a : AdamDesc) : Bool :=
  decide (1 ≤ a.count) && decide (a.count ≤ 1048576) && (decide (a.fmt = 3) || decide (a.count % 32 = 0)) &&
    ([a.w, a.m, a.v, a.g].all fun p => (localKey d c p (4 * a.count)).isSome) &&
    (decide (a.fmt = 3) || (decide (a.q % 64 = 0) && (localKey d c a.q (a.count / 32 * blockBytes a.fmt)).isSome))

/-- Reads a binary32 value at a core-local address; a poisoned one is a quiet NaN (R427). -/
def readF32 (d : Dev) (x c a : Nat) : W32 × Dev :=
  match localKey d c a 4 with
  | none => (0, d)
  | some k =>
    let bad := (memMarks d k 4).any id
    (if bad then qNaN else BitVec.ofNat 32 (leNat (memBytes d k 4)), eccRead d x k 4)

def writeLocal (d : Dev) (x c a : Nat) (bs : List Byte) : Dev :=
  match localKey d c a bs.length with
  | none => d
  | some k => memWrite d x k bs

/-- One step of AdamW on an element (R193): the new m, v, w and the flags. -/
def adamStep (a : AdamDesc) (m v w g : W32) : W32 × W32 × W32 × Half :=
  let t1 := f32Sub .rne 0x3F800000 a.b1
  let t2 := f32Sub .rne 0x3F800000 a.b2
  let p1 := f32Mul .rne t1.1 g
  let m' := f32Fma .rne a.b1 m p1.1
  let gg := f32Mul .rne g g
  let p2 := f32Mul .rne t2.1 gg.1
  let v' := f32Fma .rne a.b2 v p2.1
  let vb := f32Mul .rne v'.1 a.bc2
  let sq := f32Sqrt .rne vb.1
  let de := f32Add .rne sq.1 a.eps
  let mb := f32Mul .rne m'.1 a.bc1
  let u := f32Div .rne mb.1 de.1
  let q := f32Fma .rne a.wd w u.1
  let w' := f32Fma .rne (f32Neg a.lr) q.1 w
  (m'.1, v'.1, w'.1, t1.2 ||| t2.2 ||| p1.2 ||| m'.2 ||| gg.2 ||| p2.2 ||| v'.2 ||| vb.2 ||| sq.2 ||| de.2 ||| mb.2 ||| u.2 ||| q.2 ||| w'.2)

/-- Element `i`: its memory updates, its new weight and its flags. -/
def adamElem (a : AdamDesc) (x c i : Nat) (d : Dev) : Dev × W32 × Half :=
  let (m, d) := readF32 d x c (a.m + 4 * i)
  let (v, d) := readF32 d x c (a.v + 4 * i)
  let (g, d) := readF32 d x c (a.g + 4 * i)
  let (w, d) := readF32 d x c (a.w + 4 * i)
  let (m', v', w', fl) := adamStep a m v w g
  let d := writeLocal d x c (a.m + 4 * i) (toLE 4 m'.toNat)
  let d := writeLocal d x c (a.v + 4 * i) (toLE 4 v'.toNat)
  (writeLocal d x c (a.w + 4 * i) (toLE 4 w'.toNat), w', fl)

/-- The elements of a list in order: the new weights beside their elements, and the flags. -/
def adamElems (a : AdamDesc) (x c : Nat) : List Nat → Dev → Dev × List (Nat × W32) × Half
  | [], d => (d, [], 0)
  | i :: r, d =>
    let (d, w, f) := adamElem a x c i d
    let (d, ws, fl) := adamElems a x c r d
    (d, (i, w) :: ws, f ||| fl)

/-- Encodes the new weights of run `j` (R193): those of enabled lanes, as VENC does (R190); element i rounds with lane i mod 128 (log
entry 31, DEDUCED). -/
def adamEncode (a : AdamDesc) (x c j : Nat) (sr : Bool) (lf : BitVec 2048) (ws : List (Nat × W32)) (d : Dev) : Dev × Half × Stats :=
  let ys := ws.map fun e => (e.1, encY e.2)
  let cols := ys.map fun y =>
    (⟨y.1 - 32 * j, f32Mag y.2.1, if sr then .sr (laneRandom lf (y.1 % 128) (y.1 / 128)) else .rne⟩ : EncCol)
  let r := encodeBlock a.fmt a.t a.full cols
  (writeLocal d x c (a.q + blockBytes a.fmt * j) r.bytes, ys.foldl (fun f y => f ||| y.2.2) r.flags,
    ys.foldl (fun s y => Stats.sum s (binStat (binF32 y.2.1))) (encStat r))

/-- Run `j`: up to 32 elements; those in a disabled lane stay as they are, and a block with no enabled lane is not written (R183, R190). -/
def adamRun (a : AdamDesc) (x c : Nat) (p : BitVec 128) (sr : Bool) (lf : BitVec 2048) (j : Nat) (d : Dev) : Dev × Half × Stats :=
  let (d, ws, fl) := adamElems a x c
    (((List.range 32).map fun e => 32 * j + e).filter fun i => decide (i < a.count) && on p (i % 128)) d
  if a.fmt = 3 ∨ ws.isEmpty then (d, fl, Stats.zero)
  else
    let (d, f, st) := adamEncode a x c j sr lf ws d
    (d, fl ||| f, st)

/-- The runs from `j` on, up to `n` of them; a core that a freeze holds stops at a boundary of 32 elements (R198). Answers the next run. -/
def adamRuns (a : AdamDesc) (x c : Nat) (p : BitVec 128) (sr : Bool) (lf : BitVec 2048) :
    Nat → Nat → Dev → Half → Stats → Nat × Dev × Half × Stats
  | 0, j, d, fl, st => (j, d, fl, st)
  | n + 1, j, d, fl, st =>
    let (d, f, s) := adamRun a x c p sr lf j d
    if (coreOf d c).held then (j + 1, d, fl ||| f, Stats.sum st s)
    else adamRuns a x c p sr lf n (j + 1) d (fl ||| f) (Stats.sum st s)

/-- VADAMW (R192, R193): a descriptor that breaks the table is BAD_OPERAND before any element is written (log entry 61, DEDUCED). One
that was stopped goes on at the run it had come to (R198). -/
def goVadamw (c : Nat) (f : Fields) (d : Dev) (k : Core) (i : Inst) : Dev :=
  if !rmOk f then badInstruction d c
  else withAcc c false (operandRead d i.ctx c (getX k f.rs1) 64 64) fun b d =>
    let a := parseAdam b
    if !adamOk d c a then coreFault d c 0x1015 (getX k f.rs1)
    else
      let all := cdiv a.count 32
      let (j, d, fl, st) := adamRuns a i.ctx c (predOf k f) (decide (f.rm = 4)) k.lfsr (all - k.adam) k.adam d 0 Stats.zero
      let d := count (raise d i.ctx i.task c fl) i.ctx i.task st
      if j < all then coreUpd d c fun k => { k with adam := j }
      else coreUpd d c fun k =>
        { k with adam := 0, lfsr := if f.rm = 4 then lanesAfter k.lfsr (fun _ => cdiv a.count 128) else k.lfsr, pc := k.pc + 8 }

def execVadamw (c : Nat) (f : Fields) (s : State) : Host.Outcome State Fault Refusal := onVector true (.vadamw c f) c s (goVadamw c f)

/-! ### The vector queue (R176, R181) -/

/-- What the vector unit does for an instruction: whether it reaches memory, and its effect. -/
def vectorUnit : Instr → Option (Bool × (Dev → Core → Inst → Dev))
  | .vld c f => some (true, goVld c f)
  | .vst c f => some (true, goVst c f)
  | .vlds c f => some (true, goVlds c f)
  | .vldt c f => some (true, goVldt c f)
  | .vbcast c f => some (false, goVbcast c f)
  | .vadd c f => some (false, goVadd c f)
  | .vsub c f => some (false, goVsub c f)
  | .vmul c f => some (false, goVmul c f)
  | .vfma c f => some (false, goVfma c f)
  | .vdiv c f => some (false, goVdiv c f)
  | .vsqrt c f => some (false, goVsqrt c f)
  | .vmax c f => some (false, goVmax c f)
  | .vmin c f => some (false, goVmin c f)
  | .vcmp c f => some (false, goVcmp c f)
  | .vsel c f => some (false, goVsel c f)
  | .vcvt c f => some (false, goVcvt c f)
  | .vlogic c f => some (false, goVlogic c f)
  | .vexp c f => some (false, goVexp c f)
  | .vlog c f => some (false, goVlog c f)
  | .vrsqrt c f => some (false, goVrsqrt c f)
  | .vtanh c f => some (false, goVtanh c f)
  | .vsigm c f => some (false, goVsigm c f)
  | .vrsum c f => some (false, goVrsum c f)
  | .vrmax c f => some (false, goVrmax c f)
  | .vrmin c f => some (false, goVrmin c f)
  | .vdec c f => some (true, goVdec c f)
  | .venc c f => some (true, goVenc c f)
  | .vseg c f => some (true, goVseg c f)
  | .vadamw c f => some (true, goVadamw c f)
  | _ => none

/-- The scalar register that a vector instruction writes: VSEG's count. -/
def vectorX : Instr → Option (BitVec 5)
  | .vseg _ f => some f.rd
  | _ => none

/-- The vector unit of core `c` tries the front of its queue, with the scalar registers of its issue: when it has completed, the scalar
unit stands where it stood; when it has paused or stopped, the instruction stays in front; a fault has ended the run (R196, R197). -/
def drainOne (d : Dev) (c : Nat) : Dev :=
  let k := coreOf d c
  match k.vq, k.inst with
  | e :: r, some i =>
    (match vectorUnit e.instr with
    | none => coreSet d c { k with vq := r }
    | some (mem, go) =>
      if k.held || (mem && bankFlagged d c 7) || !(decide (k.status = .running) || decide (k.status = .waiting)) then d
      else
        let d' := go (coreSet d c { k with x := e.x, pc := e.pc }) { k with x := e.x, pc := e.pc } i
        let k' := coreOf d' c
        if k'.inst ≠ some i then d'
        else if k'.pc = e.pc then
          (if k.status = .waiting ∧ k'.status = .paused then d else coreSet d' c { k' with x := k.x, pc := k.pc })
        else
          let back := coreSet d' c { k' with x := k.x, pc := k.pc, vq := r }
          match vectorX e.instr with
          | some rd => coreUpd back c fun q => setX q rd (getX k' rd)
          | none => back)
  | _, _ => d

/-- Up to 16 queued instructions of a core complete, in order. -/
def drainQueue : Nat → Dev → Nat → Dev
  | 0, d, _ => d
  | n + 1, d, c =>
    let d' := drainOne d c
    if (coreOf d' c).vq.length < (coreOf d c).vq.length then drainQueue n d' c else d'

/-- The vector units of all cores go on with their queues. -/
def drainAll (d : Dev) : Dev :=
  (d.cores.map (·.1)).foldl (fun d c => if (coreOf d c).vq.isEmpty then d else drainQueue 16 d c) d

end Sys2Proof.Machine
end

