-- ==== Sys2Proof/Machine/Dispatch.lean ====
section
/-! DEFINITION. One arm per command: each a direct call of its meaning. -/

namespace Sys2Proof.Machine

def exec (i : Instr) (s : State) : Host.Outcome State Fault Refusal :=
  match i with
  | .nop c w => Sys2Proof.Machine.execNop c w s
  | .addi c f => Sys2Proof.Machine.execAddi c f s
  | .add c f => Sys2Proof.Machine.execAdd c f s
  | .sub c f => Sys2Proof.Machine.execSub c f s
  | .mul c f => Sys2Proof.Machine.execMul c f s
  | .and c f => Sys2Proof.Machine.execAnd c f s
  | .or c f => Sys2Proof.Machine.execOr c f s
  | .xor c f => Sys2Proof.Machine.execXor c f s
  | .shl c f => Sys2Proof.Machine.execShl c f s
  | .shr c f => Sys2Proof.Machine.execShr c f s
  | .sra c f => Sys2Proof.Machine.execSra c f s
  | .slt c f => Sys2Proof.Machine.execSlt c f s
  | .sltu c f => Sys2Proof.Machine.execSltu c f s
  | .lih c f => Sys2Proof.Machine.execLih c f s
  | .ld c f => Sys2Proof.Machine.execLd c f s
  | .st c f => Sys2Proof.Machine.execSt c f s
  | .ldw c f => Sys2Proof.Machine.execLdw c f s
  | .stw c f => Sys2Proof.Machine.execStw c f s
  | .beq c f => Sys2Proof.Machine.execBeq c f s
  | .bne c f => Sys2Proof.Machine.execBne c f s
  | .blt c f => Sys2Proof.Machine.execBlt c f s
  | .bge c f => Sys2Proof.Machine.execBge c f s
  | .jal c f => Sys2Proof.Machine.execJal c f s
  | .jr c f => Sys2Proof.Machine.execJr c f s
  | .missue c f => Sys2Proof.Machine.execMissue c f s
  | .dissue c f => Sys2Proof.Machine.execDissue c f s
  | .signal c f => Sys2Proof.Machine.execSignal c f s
  | .wait c f => Sys2Proof.Machine.execWait c f s
  | .dec c f => Sys2Proof.Machine.execDec c f s
  | .arrive c f => Sys2Proof.Machine.execArrive c f s
  | .tsetc c f => Sys2Proof.Machine.execTsetc c f s
  | .tsetb c f => Sys2Proof.Machine.execTsetb c f s
  | .tdrop c f => Sys2Proof.Machine.execTdrop c f s
  | .rset c f => Sys2Proof.Machine.execRset c f s
  | .rget c f => Sys2Proof.Machine.execRget c f s
  | .rflush c f => Sys2Proof.Machine.execRflush c f s
  | .commit c f => Sys2Proof.Machine.execCommit c f s
  | .release c f => Sys2Proof.Machine.execRelease c f s
  | .talloc c f => Sys2Proof.Machine.execTalloc c f s
  | .tload c f => Sys2Proof.Machine.execTload c f s
  | .tloadRetire c => Sys2Proof.Machine.execTloadRetire c s
  | .tfree c f => Sys2Proof.Machine.execTfree c f s
  | .cwb c f => Sys2Proof.Machine.execCwb c f s
  | .cinv c f => Sys2Proof.Machine.execCinv c f s
  | .cwbinv c f => Sys2Proof.Machine.execCwbinv c f s
  | .flags c f => Sys2Proof.Machine.execFlags c f s
  | .cycle c f => Sys2Proof.Machine.execCycle c f s
  | .otime c f => Sys2Proof.Machine.execOtime c f s
  | .endInst c f => Sys2Proof.Machine.execEndInst c f s
  | .vld c f => Sys2Proof.Machine.execVld c f s
  | .vst c f => Sys2Proof.Machine.execVst c f s
  | .vlds c f => Sys2Proof.Machine.execVlds c f s
  | .vldt c f => Sys2Proof.Machine.execVldt c f s
  | .vbcast c f => Sys2Proof.Machine.execVbcast c f s
  | .vmovx c f => Sys2Proof.Machine.execVmovx c f s
  | .vadd c f => Sys2Proof.Machine.execVadd c f s
  | .vsub c f => Sys2Proof.Machine.execVsub c f s
  | .vmul c f => Sys2Proof.Machine.execVmul c f s
  | .vfma c f => Sys2Proof.Machine.execVfma c f s
  | .vdiv c f => Sys2Proof.Machine.execVdiv c f s
  | .vsqrt c f => Sys2Proof.Machine.execVsqrt c f s
  | .vmax c f => Sys2Proof.Machine.execVmax c f s
  | .vmin c f => Sys2Proof.Machine.execVmin c f s
  | .vcmp c f => Sys2Proof.Machine.execVcmp c f s
  | .vsel c f => Sys2Proof.Machine.execVsel c f s
  | .vcvt c f => Sys2Proof.Machine.execVcvt c f s
  | .vlogic c f => Sys2Proof.Machine.execVlogic c f s
  | .vexp c f => Sys2Proof.Machine.execVexp c f s
  | .vlog c f => Sys2Proof.Machine.execVlog c f s
  | .vrsqrt c f => Sys2Proof.Machine.execVrsqrt c f s
  | .vtanh c f => Sys2Proof.Machine.execVtanh c f s
  | .vsigm c f => Sys2Proof.Machine.execVsigm c f s
  | .vrsum c f => Sys2Proof.Machine.execVrsum c f s
  | .vrmax c f => Sys2Proof.Machine.execVrmax c f s
  | .vrmin c f => Sys2Proof.Machine.execVrmin c f s
  | .vdec c f => Sys2Proof.Machine.execVdec c f s
  | .venc c f => Sys2Proof.Machine.execVenc c f s
  | .vseg c f => Sys2Proof.Machine.execVseg c f s
  | .vadamw c f => Sys2Proof.Machine.execVadamw c f s
  | .matmul c e => Sys2Proof.Machine.execMatmul c e s
  | .exactFill c e => Sys2Proof.Machine.execExactFill c e s
  | .matrixCommandStart c e => Sys2Proof.Machine.execMatrixCommandStart c e s
  | .tileLoadDone c g => Sys2Proof.Machine.execTileLoadDone c g s
  | .bufferSwap c g => Sys2Proof.Machine.execBufferSwap c g s
  | .matrixRow c g => Sys2Proof.Machine.execMatrixRow c g s
  | .matrixCommandComplete c e => Sys2Proof.Machine.execMatrixCommandComplete c e s
  | .batchTimeout cl k => Sys2Proof.Machine.execBatchTimeout cl k s
  | .batchCopyOut c e => Sys2Proof.Machine.execBatchCopyOut c e s
  | .dmaPiece cl slot => Sys2Proof.Machine.execDmaPiece cl slot s
  | .dmaComplete cl slot => Sys2Proof.Machine.execDmaComplete cl slot s
  | .waitClockGate c => Sys2Proof.Machine.execWaitClockGate c s
  | .tallyRemoteArrival m => Sys2Proof.Machine.execTallyRemoteArrival m s
  | .tallyRemoteRelease m => Sys2Proof.Machine.execTallyRemoteRelease m s
  | .signalRemote m => Sys2Proof.Machine.execSignalRemote m s
  | .submit x => Sys2Proof.Machine.execSubmit x s
  | .graphAccept x => Sys2Proof.Machine.execGraphAccept x s
  | .instanceStart c => Sys2Proof.Machine.execInstanceStart c s
  | .taskComplete x t => Sys2Proof.Machine.execTaskComplete x t s
  | .taskTimeout x t => Sys2Proof.Machine.execTaskTimeout x t s
  | .graphComplete x => Sys2Proof.Machine.execGraphComplete x s
  | .channelItemMove x ch => Sys2Proof.Machine.execChannelItemMove x ch s
  | .channelDeliver x ch => Sys2Proof.Machine.execChannelDeliver x ch s
  | .patrolScrub kind u bank word => Sys2Proof.Machine.execPatrolScrub kind u bank word s
  | .scrubComplete x failed corrected => Sys2Proof.Machine.execScrubComplete x failed corrected s
  | .holdLimitCutoff site die inst req x => Sys2Proof.Machine.execHoldLimitCutoff site die inst req x s
  | .flagged src sub data => Sys2Proof.Machine.execFlagged src sub data s
  | .commitArbitration src data => Sys2Proof.Machine.execCommitArbitration src data s
  | .clusterCache src sub data => Sys2Proof.Machine.execClusterCache src sub data s
  | .batcherEn src sub data => Sys2Proof.Machine.execBatcherEn src sub data s
  | .create src x => Sys2Proof.Machine.execCreate src x s
  | .endContext src x => Sys2Proof.Machine.execEndContext src x s
  | .kill src x => Sys2Proof.Machine.execKill src x s
  | .preempt src x => Sys2Proof.Machine.execPreempt src x s
  | .preemptForced src x => Sys2Proof.Machine.execPreemptForced src x s
  | .harvestComplete x => Sys2Proof.Machine.execHarvestComplete x s
  | .restore src x => Sys2Proof.Machine.execRestore src x s
  | .restoreComplete x => Sys2Proof.Machine.execRestoreComplete x s
  | .adopt src x => Sys2Proof.Machine.execAdopt src x s
  | .reclaimPageMoved x => Sys2Proof.Machine.execReclaimPageMoved x s
  | .map src data => Sys2Proof.Machine.execMap src data s
  | .unmap src data => Sys2Proof.Machine.execUnmap src data s
  | .protect src data => Sys2Proof.Machine.execProtect src data s
  | .load src data image => Sys2Proof.Machine.execLoad src data image s
  | .cancelLoad src data => Sys2Proof.Machine.execCancelLoad src data s
  | .loadPiece x data err => Sys2Proof.Machine.execLoadPiece x data err s
  | .peerRead x va len => Sys2Proof.Machine.execPeerRead x va len s
  | .ringEnable src data => Sys2Proof.Machine.execRingEnable src data s
  | .ringFormCheck => Sys2Proof.Machine.execRingFormCheck s
  | .sendEntryGo x dir => Sys2Proof.Machine.execSendEntryGo x dir s
  | .trainSend x dir => Sys2Proof.Machine.execTrainSend x dir s
  | .flitReceive l flit => Sys2Proof.Machine.execFlitReceive l flit s
  | .flitForward l => Sys2Proof.Machine.execFlitForward l s
  | .unitLand port stream => Sys2Proof.Machine.execUnitLand port stream s
  | .gradientAccumulate port stream => Sys2Proof.Machine.execGradientAccumulate port stream s
  | .linkControlSend l => Sys2Proof.Machine.execLinkControlSend l s
  | .linkControlReceive l flit => Sys2Proof.Machine.execLinkControlReceive l flit s
  | .linkControlTimeout l => Sys2Proof.Machine.execLinkControlTimeout l s
  | .lightLoss l lit => Sys2Proof.Machine.execLightLoss l lit s
  | .lockLoss l => Sys2Proof.Machine.execLockLoss l s
  | .trainingTimeout l => Sys2Proof.Machine.execTrainingTimeout l s
  | .detect l lit => Sys2Proof.Machine.execDetect l lit s
  | .lock l => Sys2Proof.Machine.execLock l s
  | .align l errs => Sys2Proof.Machine.execAlign l errs s
  | .fecUp l => Sys2Proof.Machine.execFecUp l s
  | .ident l block => Sys2Proof.Machine.execIdent l block s
  | .quietEnd l => Sys2Proof.Machine.execQuietEnd l s
  | .absentLight l => Sys2Proof.Machine.execAbsentLight l s
  | .laneWearWindow e lane errs => Sys2Proof.Machine.execLaneWearWindow e lane errs s
  | .fibrePowerLoss fibre => Sys2Proof.Machine.execFibrePowerLoss fibre s
  | .retrain src e => Sys2Proof.Machine.execRetrain src e s
  | .disable src e => Sys2Proof.Machine.execDisable src e s
  | .enable src e => Sys2Proof.Machine.execEnable src e s
  | .routeReq src data => Sys2Proof.Machine.execRouteReq src data s
  | .routedTrain l train => Sys2Proof.Machine.execRoutedTrain l train s
  | .timeTrainSend l => Sys2Proof.Machine.execTimeTrainSend l s
  | .timeTrainReceive l header t4 replayed => Sys2Proof.Machine.execTimeTrainReceive l header t4 replayed s
  | .timeSet src data => Sys2Proof.Machine.execTimeSet src data s
  | .timeRole src data => Sys2Proof.Machine.execTimeRole src data s
  | .freezeMessage l train => Sys2Proof.Machine.execFreezeMessage l train s
  | .freezeComplete x => Sys2Proof.Machine.execFreezeComplete x s
  | .wfAck src data => Sys2Proof.Machine.execWfAck src data s
  | .graftReq src data => Sys2Proof.Machine.execGraftReq src data s
  | .recovery src data => Sys2Proof.Machine.execRecovery src data s
  | .monitorSample temps supplies => Sys2Proof.Machine.execMonitorSample temps supplies s
  | .throttleStep die => Sys2Proof.Machine.execThrottleStep die s
  | .throttleRecover die => Sys2Proof.Machine.execThrottleRecover die s
  | .pRequest src sub data => Sys2Proof.Machine.execPRequest src sub data s
  | .pStateChangeDone die => Sys2Proof.Machine.execPStateChangeDone die s
  | .powerStateEntry level => Sys2Proof.Machine.execPowerStateEntry level s
  | .wakeComplete => Sys2Proof.Machine.execWakeComplete s
  | .sqTail x v pre => Sys2Proof.Machine.execSqTail x v pre s
  | .write x => Sys2Proof.Machine.execWrite x s
  | .sqFlush x v pre => Sys2Proof.Machine.execSqFlush x v pre s
  | .cancel x v => Sys2Proof.Machine.execCancel x v s
  | .resume x v => Sys2Proof.Machine.execResume x v s
  | .abort x v => Sys2Proof.Machine.execAbort x v s
  | .recordPost x ring => Sys2Proof.Machine.execRecordPost x ring s
  | .cqHead x ring v => Sys2Proof.Machine.execCqHead x ring v s
  | .bar2Read off len pre => Sys2Proof.Machine.execBar2Read off len pre s
  | .bar2Write off data pre => Sys2Proof.Machine.execBar2Write off data pre s
  | .perstN => Sys2Proof.Machine.execPerstN s
  | .functionLevelReset => Sys2Proof.Machine.execFunctionLevelReset s
  | .mbDoorbell len pre => Sys2Proof.Machine.execMbDoorbell len pre s
  | .frameReceive dst mac rest => Sys2Proof.Machine.execFrameReceive dst mac rest s
  | .read src index sub len off => Sys2Proof.Machine.execRead src index sub len off s
  | .objectWrite src index sub data => Sys2Proof.Machine.execObjectWrite src index sub data s
  | .writeSegment src index sub off data => Sys2Proof.Machine.execWriteSegment src index sub off data s
  | .segmentTimeout mac => Sys2Proof.Machine.execSegmentTimeout mac s
  | .discover src => Sys2Proof.Machine.execDiscover src s
  | .event => Sys2Proof.Machine.execEvent s
  | .nvStoreDefaults src => Sys2Proof.Machine.execNvStoreDefaults src s
  | .nvErase src => Sys2Proof.Machine.execNvErase src s
  | .nvStoreDone good => Sys2Proof.Machine.execNvStoreDone good s
  | .stepTrig => Sys2Proof.Machine.execStepTrig s
  | .powerUp env => Sys2Proof.Machine.execPowerUp env s
  | .vin48Dip => Sys2Proof.Machine.execVin48Dip s
  | .vin48Loss => Sys2Proof.Machine.execVin48Loss s
  | .vaux12Loss => Sys2Proof.Machine.execVaux12Loss s
  | .vin48Restored env => Sys2Proof.Machine.execVin48Restored env s
  | .dieShutdown die => Sys2Proof.Machine.execDieShutdown die s
  | .meterStart torn => Sys2Proof.Machine.execMeterStart torn s
  | .meterSample uj mv ma timeBase => Sys2Proof.Machine.execMeterSample uj mv ma timeBase s
  | .mtrPulseEnd => Sys2Proof.Machine.execMtrPulseEnd s
  | .statusRecord => Sys2Proof.Machine.execStatusRecord s
  | .meterReadRequest index sub off => Sys2Proof.Machine.execMeterReadRequest index sub off s
  | .statusRecordTimeout => Sys2Proof.Machine.execStatusRecordTimeout s
  | .meterPowerDown => Sys2Proof.Machine.execMeterPowerDown s
  | .vaux12Restored env => Sys2Proof.Machine.execVaux12Restored env s
  | .pllLockLoss die => Sys2Proof.Machine.execPllLockLoss die s
  | .powerStateEntryComplete => Sys2Proof.Machine.execPowerStateEntryComplete s
  | .hotChannelWindow counts => Sys2Proof.Machine.execHotChannelWindow counts s
  | .debugPortAccess a => Sys2Proof.Machine.execDebugPortAccess a s
  | .perstNDeassert => Sys2Proof.Machine.execPerstNDeassert s
  | .busMasterEnable => Sys2Proof.Machine.execBusMasterEnable s
  | .msixMaskClear vec pre => Sys2Proof.Machine.execMsixMaskClear vec pre s
  | .cqBase x ring base size pre => Sys2Proof.Machine.execCqBase x ring base size pre s

end Sys2Proof.Machine
end

