-- ==== Sys2Proof/Machine/Idle.lean ====
section
/-! DEFINITION. What passes when no command waits: one tick of orchard time (R324, R327) and of the CYCLE counters (R194), in which the
vector units go on with their queues (R181). -/

namespace Sys2Proof.Machine

/-- Half cycles of the core clock in one tick of 1.25 ns, by effective P-state: 1.6, 1.2 and 0.8 GHz (R382, R384). -/
def halfCyclesPerTick (p : Nat) : Nat := if p = 0 then 4 else if p = 1 then 3 else 2

/-- Effective P-state of a die. -/
def effP (d : Dev) (die : Nat) : Nat := look 0 d.power.effective die

/-- One tick of orchard time: a slewing counter gains or loses one tick in each 256 ticks; in HOLDOVER (3) it keeps its rate (R327). -/
def tickTime (t : OTime) : OTime :=
  if t.slew = 0 then { t with count := t.count + 1 }
  else if t.phase + 1 < 256 then { t with count := t.count + 1, phase := t.phase + 1 }
  else if 0 < t.slew then { t with count := t.count + 2, phase := 0, slew := if t.state = 3 then t.slew else t.slew - 1 }
  else { t with phase := 0, slew := if t.state = 3 then t.slew else t.slew + 1 }

/-- The half cycles that a core's counter gains in a tick while an instance runs there; it counts core cycles, gated or not (R194;
log entry 4, DESIGN CHOICE). -/
def tickCore (d : Dev) (c : Nat) (k : Core) : Core :=
  if k.inst.isSome then { k with halfCycles := k.halfCycles + halfCyclesPerTick (effP d (c / 64)) } else k

/-- One tick with no command (log entry 4, DESIGN CHOICE). -/
def idle (s : State) : State :=
  let d := s.dev
  { s with dev := drainAll { d with otime := tickTime d.otime, cores := d.cores.map fun e => (e.1, tickCore d e.1 e.2) } }

end Sys2Proof.Machine
end

