-- ==== Sys2Proof/Laws/Table.lean ====
section
/-! SUPPORT. Laws of sparse tables and byte memory: what a read gives after a write, and that every memory operation keeps the
canonical form. -/

namespace Sys2Proof.Machine

variable {α : Type}

/-! ### Keys that rise -/

theorem Rising.nil : Rising ([] : Table α) := List.Pairwise.nil

theorem Rising.tail {e : Nat × α} {r : Table α} (h : Rising (e :: r)) : Rising r := (List.pairwise_cons.1 h).2

theorem Rising.filter {t : Table α} (h : Rising t) (p : Nat × α → Bool) : Rising (t.filter p) := List.Pairwise.filter p h

theorem Rising.mapVal {β : Type} {t : Table α} (h : Rising t) (f : Nat × α → β) : Rising (t.map fun e => (e.1, f e)) := by
  unfold Rising at *
  rw [List.pairwise_map]
  exact h

/-- The keys after a write are the keys before and the key written. -/
theorem mem_put [DecidableEq α] {d v : α} {t : Table α} {k : Nat} {e : Nat × α} (h : e ∈ put d t k v) :
    e = (k, v) ∨ e ∈ t := by
  induction t with
  | nil => unfold put at h; split at h <;> simp_all
  | cons a r ih =>
    obtain ⟨k', v'⟩ := a
    simp only [put] at h
    split_ifs at h <;> simp only [List.mem_cons] at h ⊢ <;> tauto

/-- A write keeps the keys rising. -/
theorem Rising.put [DecidableEq α] {t : Table α} (h : Rising t) (d : α) (k : Nat) (v : α) : Rising (put d t k v) := by
  induction t with
  | nil =>
    unfold Sys2Proof.Machine.put
    split
    · exact Rising.nil
    · exact List.pairwise_singleton _ _
  | cons a r ih =>
    obtain ⟨k', v'⟩ := a
    have hr := Rising.tail h
    have hh := (List.pairwise_cons.1 h).1
    unfold Sys2Proof.Machine.put
    split
    · rename_i e
      subst e
      split
      · exact hr
      · exact List.pairwise_cons.2 ⟨fun x hx => hh x hx, hr⟩
    · split
      · rename_i hlt
        split
        · exact h
        · refine List.pairwise_cons.2 ⟨fun x hx => ?_, h⟩
          rcases List.mem_cons.1 hx with rfl | hx
          · exact hlt
          · exact Nat.lt_trans hlt (hh x hx)
      · refine List.pairwise_cons.2 ⟨fun x hx => ?_, ih hr⟩
        rcases mem_put hx with rfl | hx
        · show k' < k
          omega
        · exact hh x hx

theorem Rising.upd [DecidableEq α] {t : Table α} (h : Rising t) (d : α) (k : Nat) (f : α → α) : Rising (upd d t k f) := h.put d k _

/-- What a listed entry says of a key. -/
theorem look_cons (d : α) (k : Nat) (v : α) (r : Table α) (j : Nat) :
    look d ((k, v) :: r) j = if k = j then v else if j < k then d else look d r j := by
  rw [look]

/-- A key that is not listed reads as the default. -/
theorem look_unlisted {d : α} {t : Table α} {j : Nat} (h : ¬ ∃ e ∈ t, e.1 = j) : look d t j = d := by
  induction t with
  | nil => rfl
  | cons e r ih =>
    obtain ⟨k, v⟩ := e
    rw [look_cons, if_neg fun hk => h ⟨(k, v), by simp, hk⟩]
    split
    · rfl
    · exact ih fun ⟨e, he, hj⟩ => h ⟨e, by simp [he], hj⟩

/-- A key below every listed one reads as the default. -/
theorem look_below {d : α} {t : Table α} {j : Nat} (h : ∀ e ∈ t, j < e.1) : look d t j = d := by
  cases t with
  | nil => rfl
  | cons a r =>
    obtain ⟨k', v'⟩ := a
    have : j < k' := h (k', v') (by simp)
    unfold look
    rw [if_neg (by omega), if_pos this]

/-- The value written reads back, whatever the table, unless it is the default. -/
theorem look_put_same [DecidableEq α] {d v : α} (t : Table α) (k : Nat) (hv : v ≠ d) : look d (put d t k v) k = v := by
  induction t with
  | nil => simp [put, hv, look]
  | cons a r ih =>
    obtain ⟨k', v'⟩ := a
    unfold put
    split
    · simp [look]
    · split
      · simp [look]
      · rename_i h1 h2
        rw [look_cons, if_neg h1, if_neg h2]
        exact ih

/-- Read after write: the key written reads as the value written, every other key as before. -/
theorem look_put [DecidableEq α] {t : Table α} (h : Rising t) (d : α) (k : Nat) (v : α) (j : Nat) :
    look d (put d t k v) j = if j = k then v else look d t j := by
  induction t with
  | nil =>
    unfold put
    split
    · subst v; simp [look]
    · by_cases hj : j = k
      · simp [look, hj]
      · have : ¬ k = j := fun e => hj e.symm
        simp [look, hj, this]
  | cons a r ih =>
    obtain ⟨k', v'⟩ := a
    have hr := Rising.tail h
    have hh := (List.pairwise_cons.1 h).1
    have below (j : Nat) (hj : j ≤ k') : look d r j = d := look_below fun e he => by
      have h1 := hh e he
      have h2 : k' < e.1 := h1
      omega
    unfold put
    by_cases h1 : k' = k
    · subst h1
      rw [if_pos rfl]
      by_cases hv : v = d
      · rw [if_pos hv]
        by_cases hj : j = k'
        · rw [if_pos hj, hj, below k' (Nat.le_refl _), hv]
        · rw [if_neg hj]
          rw [look_cons, if_neg (fun e => hj e.symm)]
          split
          · exact below j (by omega)
          · rfl
      · rw [if_neg hv]
        by_cases hj : j = k'
        · simp [look, hj]
        · have : ¬ k' = j := fun e => hj e.symm
          simp [look, hj, this]
    · rw [if_neg h1]
      by_cases h2 : k < k'
      · rw [if_pos h2]
        by_cases hv : v = d
        · rw [if_pos hv]
          by_cases hj : j = k
          · rw [if_pos hj, hj]
            show look d ((k', v') :: r) k = v
            unfold look
            rw [if_neg h1, if_pos h2, hv]
          · rw [if_neg hj]
        · rw [if_neg hv]
          by_cases hj : j = k
          · simp [look, hj]
          · have h3 : ¬ k = j := fun e => hj e.symm
            rw [if_neg hj]
            show look d ((k, v) :: (k', v') :: r) j = look d ((k', v') :: r) j
            rw [look, if_neg h3]
            split
            · show d = look d ((k', v') :: r) j
              rw [look, if_neg (by omega), if_pos (by omega)]
            · rfl
      · rw [if_neg h2]
        show look d ((k', v') :: put d r k v) j = if j = k then v else look d ((k', v') :: r) j
        rw [look, look]
        by_cases h3 : k' = j
        · rw [if_pos h3, if_pos h3, if_neg (by omega)]
        · rw [if_neg h3, if_neg h3, ih hr]
          by_cases h4 : j < k'
          · rw [if_pos h4, if_pos h4, if_neg (by omega)]
          · rw [if_neg h4, if_neg h4]

/-- What `upd` does to a table. -/
theorem look_upd [DecidableEq α] {t : Table α} (h : Rising t) (d : α) (k : Nat) (f : α → α) (j : Nat) :
    look d (upd d t k f) j = if j = k then f (look d t k) else look d t j := look_put h d k _ j

/-! ### The canonical form -/

/-- The canonical form, in words of a proposition: keys rise, and no entry is the default. -/
theorem wfFrom_iff [DecidableEq α] {d : α} (lo : Option Nat) (t : Table α) :
    Table.wfFrom d lo t = true ↔ Rising t ∧ (∀ e ∈ t, e.2 ≠ d) ∧ (∀ l, lo = some l → ∀ e ∈ t, l < e.1) := by
  induction t generalizing lo with
  | nil => simp [Table.wfFrom, Rising]
  | cons a r ih =>
    obtain ⟨k, v⟩ := a
    unfold Table.wfFrom
    rw [Bool.and_eq_true, Bool.and_eq_true, ih]
    constructor
    · rintro ⟨⟨h1, h2⟩, h3, h4, h5⟩
      have h5' := h5 k rfl
      refine ⟨List.pairwise_cons.2 ⟨h5', h3⟩, ?_, ?_⟩
      · intro e he
        rcases List.mem_cons.1 he with rfl | he
        · exact of_decide_eq_true h2
        · exact h4 e he
      · intro l hl e he
        subst hl
        have hlk : l < k := of_decide_eq_true h1
        rcases List.mem_cons.1 he with rfl | he
        · exact hlk
        · exact Nat.lt_trans hlk (h5' e he)
    · rintro ⟨h1, h2, h3⟩
      have hp := List.pairwise_cons.1 h1
      refine ⟨⟨?_, decide_eq_true (h2 (k, v) (by simp))⟩, hp.2, fun e he => h2 e (by simp [he]), ?_⟩
      · cases lo with
        | none => rfl
        | some l => exact decide_eq_true (h3 l rfl (k, v) (by simp))
      · intro l hl e he
        cases hl
        exact hp.1 e he

theorem wf_iff [DecidableEq α] {d : α} (t : Table α) : Table.wf d t = true ↔ Rising t ∧ ∀ e ∈ t, e.2 ≠ d := by
  unfold Table.wf
  rw [wfFrom_iff]
  simp

theorem Table.wf_nil [DecidableEq α] (d : α) : Table.wf d ([] : Table α) = true := rfl

/-- `put` keeps the canonical form. -/
theorem Table.wf_put [DecidableEq α] {d : α} {t : Table α} (h : Table.wf d t = true) (k : Nat) (v : α) :
    Table.wf d (put d t k v) = true := by
  rw [wf_iff] at *
  refine ⟨h.1.put d k v, fun e he => ?_⟩
  by_cases hv : v = d
  · -- writing the default lists nothing
    have : ∀ (t : Table α), (∀ e ∈ t, e.2 ≠ d) → ∀ e ∈ put d t k v, e.2 ≠ d := by
      intro t ht
      induction t with
      | nil => intro e he; simp [put, hv] at he
      | cons a r ih =>
        obtain ⟨k', v'⟩ := a
        intro e he
        have hr : ∀ e ∈ r, e.2 ≠ d := fun e he => ht e (by simp [he])
        unfold put at he
        rw [if_pos hv, if_pos hv] at he
        split at he
        · exact hr e he
        · split at he
          · exact ht e he
          · rcases List.mem_cons.1 he with rfl | he
            · exact ht (k', v') (by simp)
            · exact ih hr e he
    exact this t h.2 e he
  · rcases mem_put he with rfl | he
    · exact hv
    · exact h.2 e he

/-- Dropping entries keeps the canonical form. -/
theorem Table.wf_filter [DecidableEq α] {d : α} {t : Table α} (h : Table.wf d t = true) (p : Nat × α → Bool) :
    Table.wf d (t.filter p) = true := by
  rw [wf_iff] at *
  exact ⟨h.1.filter p, fun e he => h.2 e (List.mem_filter.1 he).1⟩

/-! ### Byte memory -/

theorem cellsAt_mem {a : Nat} {bs : List Byte} {e : Nat × Byte} (h : e ∈ cellsAt a bs) :
    a ≤ e.1 ∧ e.1 < a + bs.length ∧ e.2 ≠ 0 := by
  induction bs generalizing a with
  | nil => simp [cellsAt] at h
  | cons b r ih =>
    unfold cellsAt at h
    split at h
    · obtain ⟨h1, h2, h3⟩ := ih h
      simp only [List.length_cons]
      exact ⟨by omega, by omega, h3⟩
    · rename_i hb
      rcases List.mem_cons.1 h with rfl | h
      · exact ⟨Nat.le_refl _, by simp, hb⟩
      · obtain ⟨h1, h2, h3⟩ := ih h
        simp only [List.length_cons]
        exact ⟨by omega, by omega, h3⟩

theorem cellsAt_rising (a : Nat) (bs : List Byte) : Rising (cellsAt a bs) := by
  induction bs generalizing a with
  | nil => exact Rising.nil
  | cons b r ih =>
    unfold cellsAt
    split
    · exact ih _
    · refine List.pairwise_cons.2 ⟨fun x hx => ?_, ih _⟩
      have := cellsAt_mem hx
      show a < x.1
      omega

/-- Three pieces whose keys lie one beyond the other make a table whose keys rise. -/
theorem Rising.append {a b : Table α} (ha : Rising a) (hb : Rising b) (h : ∀ x ∈ a, ∀ y ∈ b, x.1 < y.1) : Rising (a ++ b) :=
  List.pairwise_append.2 ⟨ha, hb, h⟩

/-- Writing bytes keeps the canonical form. -/
theorem Memory.wf_writeMem {m : Mem} (h : Memory.wf m = true) (a : Nat) (bs : List Byte) : Memory.wf (writeMem m a bs) = true := by
  unfold Memory.wf at *
  rw [wf_iff] at *
  unfold writeMem
  refine ⟨(h.1.filter _).append ((cellsAt_rising a bs).append (h.1.filter _) ?_) ?_, ?_⟩
  · intro x hx y hy
    have h1 := cellsAt_mem hx
    have h2 := of_decide_eq_true (List.mem_filter.1 hy).2
    omega
  · intro x hx y hy
    have h1 := of_decide_eq_true (List.mem_filter.1 hx).2
    rcases List.mem_append.1 hy with hy | hy
    · have h2 := cellsAt_mem hy
      omega
    · have h2 := of_decide_eq_true (List.mem_filter.1 hy).2
      omega
  · intro e he
    rcases List.mem_append.1 he with he | he
    · exact h.2 e (List.mem_filter.1 he).1
    · rcases List.mem_append.1 he with he | he
      · exact (cellsAt_mem he).2.2
      · exact h.2 e (List.mem_filter.1 he).1

/-- Zeroing bytes keeps the canonical form. -/
theorem Memory.wf_zeroMem {m : Mem} (h : Memory.wf m = true) (a n : Nat) : Memory.wf (zeroMem m a n) = true :=
  Table.wf_filter h _

/-- Copying bytes keeps the canonical form. -/
theorem Memory.wf_copyMem {m o : Mem} (hm : Memory.wf m = true) (ho : Memory.wf o = true) (src dst n : Nat) :
    Memory.wf (copyMem m o src dst n) = true := by
  unfold Memory.wf at *
  rw [wf_iff] at *
  unfold copyMem
  have mid : ∀ e ∈ ((m.filter fun c => decide (src ≤ c.1 ∧ c.1 < src + n)).map fun c => (c.1 - src + dst, c.2)),
      dst ≤ e.1 ∧ e.1 < dst + n ∧ e.2 ≠ 0 := by
    intro e he
    obtain ⟨c, hc, rfl⟩ := List.mem_map.1 he
    have h1 := of_decide_eq_true (List.mem_filter.1 hc).2
    have h2 := hm.2 c (List.mem_filter.1 hc).1
    exact ⟨by simp, by simp; omega, h2⟩
  have rise : Rising ((m.filter fun c => decide (src ≤ c.1 ∧ c.1 < src + n)).map fun c => (c.1 - src + dst, c.2)) := by
    unfold Rising
    rw [List.pairwise_map]
    refine List.Pairwise.imp_of_mem ?_ (hm.1.filter _)
    intro x y hx hy hxy
    have h1 := of_decide_eq_true (List.mem_filter.1 hx).2
    have h2 := of_decide_eq_true (List.mem_filter.1 hy).2
    show x.1 - src + dst < y.1 - src + dst
    omega
  refine ⟨(ho.1.filter _).append (rise.append (ho.1.filter _) ?_) ?_, ?_⟩
  · intro x hx y hy
    have h1 := mid x hx
    have h2 := of_decide_eq_true (List.mem_filter.1 hy).2
    omega
  · intro x hx y hy
    have h1 := of_decide_eq_true (List.mem_filter.1 hx).2
    rcases List.mem_append.1 hy with hy | hy
    · have h2 := mid y hy
      omega
    · have h2 := of_decide_eq_true (List.mem_filter.1 hy).2
      omega
  · intro e he
    rcases List.mem_append.1 he with he | he
    · exact ho.2 e (List.mem_filter.1 he).1
    · rcases List.mem_append.1 he with he | he
      · exact (mid e he).2.2
      · exact ho.2 e (List.mem_filter.1 he).1

/-! ### Reading byte memory -/

/-- Reading through a filter on keys. -/
theorem look_filter {d : α} {t : Table α} (h : Rising t) (p : Nat → Bool) (j : Nat) :
    look d (t.filter fun e => p e.1) j = if p j then look d t j else d := by
  induction t with
  | nil => simp [look]
  | cons a r ih =>
    obtain ⟨k, v⟩ := a
    have hr := Rising.tail h
    have hh := (List.pairwise_cons.1 h).1
    have below (i : Nat) (hi : i ≤ k) : look d r i = d := look_below fun e he => by
      have h1 : k < e.1 := hh e he
      omega
    rw [List.filter_cons]
    by_cases hp : p k = true
    · rw [if_pos hp, look_cons, look_cons, ih hr]
      by_cases h1 : k = j
      · subst h1; simp [hp]
      · rw [if_neg h1, if_neg h1]
        by_cases h2 : j < k
        · simp [h2]
        · rw [if_neg h2, if_neg h2]
    · rw [if_neg hp, ih hr, look_cons]
      by_cases h1 : k = j
      · subst h1; simp [hp]
      · rw [if_neg h1]
        by_cases h2 : j < k
        · rw [if_pos h2, below j (by omega)]
        · rw [if_neg h2]

/-- Reading through an append whose parts lie one beyond the other. -/
theorem look_append {d : α} {a b : Table α} (ha : Rising a) (h : ∀ x ∈ a, ∀ y ∈ b, x.1 < y.1) (j : Nat) :
    look d (a ++ b) j = if (∃ e ∈ a, e.1 = j) then look d a j else look d b j := by
  induction a with
  | nil => simp
  | cons e r ih =>
    obtain ⟨k, v⟩ := e
    have hr := Rising.tail ha
    have hh := (List.pairwise_cons.1 ha).1
    rw [List.cons_append, look_cons, look_cons, ih hr fun x hx y hy => h x (by simp [hx]) y hy]
    by_cases h1 : k = j
    · subst h1; simp
    · rw [if_neg h1, if_neg h1]
      by_cases h2 : j < k
      · rw [if_pos h2, if_pos h2]
        have h3 : look d b j = d := look_below fun e he => by
          have h4 : k < e.1 := h (k, v) (by simp) e he
          omega
        rw [h3]
        simp
      · rw [if_neg h2, if_neg h2]
        have : (∃ e ∈ (k, v) :: r, e.1 = j) ↔ (∃ e ∈ r, e.1 = j) := by
          simp [h1]
        rw [if_congr this rfl rfl]

/-- What the cells of a byte string read as. -/
theorem look_cellsAt (a : Nat) (bs : List Byte) (j : Nat) :
    look 0 (cellsAt a bs) j = if a ≤ j ∧ j < a + bs.length then bs.getD (j - a) 0 else 0 := by
  induction bs generalizing a with
  | nil => simp [cellsAt, look]
  | cons b r ih =>
    have key : look 0 (cellsAt (a + 1) r) j = if a + 1 ≤ j ∧ j < a + 1 + r.length then r.getD (j - (a + 1)) 0 else 0 := ih (a + 1)
    unfold cellsAt
    split
    · rename_i hb
      rw [key]
      by_cases h1 : j = a
      · subst h1; simp [hb]
      · by_cases h2 : a + 1 ≤ j ∧ j < a + 1 + r.length
        · rw [if_pos h2, if_pos (by simp only [List.length_cons]; omega)]
          obtain ⟨n, rfl⟩ : ∃ n, j = a + 1 + n := ⟨j - (a + 1), by omega⟩
          rw [show a + 1 + n - (a + 1) = n by omega, show a + 1 + n - a = n + 1 by omega]
          simp
        · rw [if_neg h2, if_neg (by simp only [List.length_cons]; omega)]
    · rw [look_cons, key]
      by_cases h1 : a = j
      · subst h1; simp
      · rw [if_neg h1]
        by_cases h3 : j < a
        · rw [if_pos h3, if_neg (by omega)]
        · rw [if_neg h3]
          by_cases h2 : a + 1 ≤ j ∧ j < a + 1 + r.length
          · rw [if_pos h2, if_pos (by simp only [List.length_cons]; omega)]
            obtain ⟨n, rfl⟩ : ∃ n, j = a + 1 + n := ⟨j - (a + 1), by omega⟩
            rw [show a + 1 + n - (a + 1) = n by omega, show a + 1 + n - a = n + 1 by omega]
            simp
          · rw [if_neg h2, if_neg (by simp only [List.length_cons]; omega)]

/-- A read that meets no listed key below it can skip what lies below. -/
theorem look_skip {d : α} {a b : Table α} (j : Nat) (h : ∀ x ∈ a, x.1 < j) : look d (a ++ b) j = look d b j := by
  induction a with
  | nil => rfl
  | cons e r ih =>
    obtain ⟨k, v⟩ := e
    have hk : k < j := h (k, v) (by simp)
    rw [List.cons_append, look_cons, if_neg (by omega), if_neg (by omega)]
    exact ih fun x hx => h x (by simp [hx])

/-- Read after write: the bytes written, and every other byte as before. -/
theorem readByte_writeMem {m : Mem} (h : Rising m) (a : Nat) (bs : List Byte) (j : Nat) :
    readByte (writeMem m a bs) j = if a ≤ j ∧ j < a + bs.length then bs.getD (j - a) 0 else readByte m j := by
  unfold readByte writeMem
  have r1 : Rising (m.filter fun c => decide (c.1 < a)) := h.filter _
  have hi : look 0 (m.filter fun c => decide (a + bs.length ≤ c.1)) j = if a + bs.length ≤ j then look 0 m j else 0 := by
    rw [look_filter h fun k => decide (a + bs.length ≤ k)]
    simp
  have lo : look 0 (m.filter fun c => decide (c.1 < a)) j = if j < a then look 0 m j else 0 := by
    rw [look_filter h fun k => decide (k < a)]
    simp
  by_cases h1 : j < a
  · rw [if_neg (by omega), look_append r1, lo, if_pos h1]
    · split
      · rfl
      · rename_i hno
        have hz : look 0 m j = 0 := by
          have h2 := lo
          rw [if_pos h1] at h2
          rw [← h2]
          exact look_unlisted hno
        rw [hz]
        refine look_below fun e he => ?_
        rcases List.mem_append.1 he with he | he
        · have := cellsAt_mem he
          omega
        · have := of_decide_eq_true (List.mem_filter.1 he).2
          omega
    · intro x hx y hy
      have h2 := of_decide_eq_true (List.mem_filter.1 hx).2
      rcases List.mem_append.1 hy with hy | hy
      · have := cellsAt_mem hy
        omega
      · have := of_decide_eq_true (List.mem_filter.1 hy).2
        omega
  · rw [look_skip j fun x hx => by
      have := of_decide_eq_true (List.mem_filter.1 hx).2
      omega]
    by_cases h2 : j < a + bs.length
    · rw [if_pos ⟨by omega, h2⟩, look_append (cellsAt_rising a bs)]
      · have hc := look_cellsAt a bs j
        rw [if_pos ⟨by omega, h2⟩] at hc
        have hi' := hi
        rw [if_neg (by omega : ¬ a + bs.length ≤ j)] at hi'
        rw [hc, hi']
        split
        · rfl
        · rename_i hno
          rw [← hc]
          exact (look_unlisted hno).symm
      · intro x hx y hy
        have h3 := cellsAt_mem hx
        have h4 := of_decide_eq_true (List.mem_filter.1 hy).2
        omega
    · rw [if_neg (by omega), look_skip j fun x hx => by
        have := cellsAt_mem hx
        omega, hi, if_pos (by omega)]

/-- Read after zeroing. -/
theorem readByte_zeroMem {m : Mem} (h : Rising m) (a n j : Nat) :
    readByte (zeroMem m a n) j = if a ≤ j ∧ j < a + n then 0 else readByte m j := by
  unfold readByte zeroMem
  rw [look_filter h fun k => decide (k < a ∨ a + n ≤ k)]
  by_cases h1 : a ≤ j ∧ j < a + n
  · rw [if_pos h1, if_neg (by simp; omega)]
  · rw [if_neg h1, if_pos (by simp; omega)]

/-- The marks that remain after some are cleared. -/
theorem look_clearMarks {t : Table Bool} (h : Rising t) (a n j : Nat) :
    look false (clearMarks t a n) j = if a ≤ j ∧ j < a + n then false else look false t j := by
  unfold clearMarks
  rw [look_filter h fun k => decide (k < a ∨ a + n ≤ k)]
  by_cases h1 : a ≤ j ∧ j < a + n
  · rw [if_pos h1, if_neg (by simp; omega)]
  · rw [if_neg h1, if_pos (by simp; omega)]

/-- How many bytes a read gives. -/
@[simp] theorem readMem_length (m : Mem) (a n : Nat) : (readMem m a n).length = n := by simp [readMem]

/-- How many bytes a number is laid out in. -/
@[simp] theorem toLE_length (n v : Nat) : (toLE n v).length = n := by
  induction n generalizing v with
  | zero => rfl
  | succ n ih => simp [toLE, ih]

/-- Laying a number out and reading it back. -/
theorem leNat_toLE (n v : Nat) : leNat (toLE n v) = v % 256 ^ n := by
  induction n generalizing v with
  | zero => simp [toLE, leNat, Nat.mod_one]
  | succ n ih =>
    have h : (256 : Nat) ^ (n + 1) = 256 * 256 ^ n := Nat.pow_succ'
    rw [toLE, leNat, ih, h, Nat.mod_mul, BitVec.toNat_ofNat]

end Sys2Proof.Machine
end

