-- ==== Sys2Proof/WellFormed.lean ====
section
/-! DEFINITION. Which commands are well-formed: they name units that the package has (R17, R18), instruction words under their own
mnemonic, and operands of the size that the interface gives them. -/

namespace Sys2Proof

/-- Cores, clusters, contexts, links, engines, dies of the package. -/
def coreOk (c : Nat) : Bool := decide (c < 256)
def clusterOk (cl : Nat) : Bool := decide (cl < 32)
def ctxOk (x : Nat) : Bool := decide (x < 64)
def linkOk (l : Nat) : Bool := decide (l < 19)
def dieOk (die : Nat) : Bool := decide (die < 4)

/-- An instruction command is well-formed when its core exists and its word spells it. -/
def wordOk (i : Instr) : Bool :=
  match encodeWord i with
  | some (c, w) => coreOk c && decide (coreInstr c w = i)
  | none => false

/-- A flit (R289) or an ident block with its CRC (R313); a header (R290). -/
def flitOk (b : List Byte) : Bool := decide (b.length = 256)
def headerOk (b : List Byte) : Bool := decide (b.length = 64)

/-- Posted writes are of 1 to 8 bytes or whole entries, within BAR0 (R346). -/
def postedOk (p : List Posted) : Bool := p.all fun e => decide (e.off + e.data.length ≤ 2 ^ 26) && decide (0 < e.data.length)

/-- Well-formed commands. -/
def Instr.wf (i : Instr) : Bool :=
  match i with
  | .tloadRetire c => coreOk c
  | .matmul c e | .exactFill c e | .matrixCommandStart c e | .matrixCommandComplete c e | .batchCopyOut c e => coreOk c && decide (e < 65536)
  | .tileLoadDone c g | .bufferSwap c g | .matrixRow c g => coreOk c && decide (g < 4)
  | .batchTimeout cl k => clusterOk cl && decide (k < 16)
  | .dmaPiece cl slot | .dmaComplete cl slot => clusterOk cl && decide (slot < 256)
  | .waitClockGate c | .instanceStart c => coreOk c
  | .tallyRemoteArrival _ | .tallyRemoteRelease _ | .signalRemote _ => true
  | .submit x | .graphAccept x | .graphComplete x | .write x | .harvestComplete x | .restoreComplete x | .reclaimPageMoved x |
    .freezeComplete x => ctxOk x
  | .taskComplete x t | .taskTimeout x t => ctxOk x && decide (t < 65536)
  | .channelItemMove x ch | .channelDeliver x ch => ctxOk x && decide (ch < 64)
  | .patrolScrub kind u bank word =>
    decide (kind < 4) && decide (u < if kind = 3 then 32 else 256) && decide (bank < [32, 48, 16, 256].getD kind 0) && decide (word < 1024)
  | .scrubComplete x failed _ => ctxOk x && failed.all clusterOk
  | .holdLimitCutoff site die inst req x => decide (site < 4) && decide (die < 5) && decide (inst < 512) && decide (req < 16) && ctxOk x
  | .create _ x | .endContext _ x | .kill _ x | .preempt _ x | .preemptForced _ x | .restore _ x | .adopt _ x => ctxOk x
  | .loadPiece x _ err => ctxOk x && decide (err < 16)
  | .peerRead x va len => ctxOk x && decide (va + len ≤ 2 ^ 52)
  | .sendEntryGo x dir | .trainSend x dir => ctxOk x && decide (dir < 2)
  | .flitReceive l flit | .linkControlReceive l flit => linkOk l && flitOk flit
  | .flitForward l | .linkControlSend l | .linkControlTimeout l | .lockLoss l | .trainingTimeout l | .lock l | .fecUp l | .quietEnd l |
    .absentLight l | .timeTrainSend l => linkOk l
  | .unitLand port stream | .gradientAccumulate port stream => decide (port < 2) && decide (stream < 256)
  | .lightLoss l _ | .detect l _ => linkOk l
  | .align l errs => linkOk l && decide (errs.length = 18)
  | .ident l block => linkOk l && flitOk block
  | .laneWearWindow e lane _ => decide (e < 20) && decide (lane < 18)
  | .fibrePowerLoss fibre => decide (fibre < 12)
  | .retrain _ e | .disable _ e | .enable _ e => decide (e < 20)
  | .routedTrain l train => decide (l < 20) && decide (64 ≤ train.length)
  | .timeTrainReceive l header _ _ => linkOk l && headerOk header
  | .freezeMessage l train => linkOk l && decide (64 ≤ train.length)
  | .monitorSample temps supplies => decide (temps.length = 13) && decide (supplies.length = 5)
  | .throttleStep die | .throttleRecover die | .pStateChangeDone die => dieOk die
  | .dieShutdown die | .pllLockLoss die => decide (die < 5)
  | .powerStateEntry level => decide (1 ≤ level) && decide (level ≤ 4)
  | .sqTail x _ pre | .sqFlush x _ pre => ctxOk x && postedOk pre
  | .cancel x _ => ctxOk x
  | .resume x _ | .abort x _ => ctxOk x
  | .recordPost x ring => ctxOk x && decide (ring < 2)
  | .cqHead x ring _ => ctxOk x && decide (ring < 2)
  | .cqBase x ring _ _ pre => ctxOk x && decide (ring < 2) && postedOk pre
  | .bar2Read off len pre => decide (off + len ≤ 2 ^ 36) && postedOk pre
  | .bar2Write off data pre => decide (off + data.length ≤ 2 ^ 36) && postedOk pre
  | .mbDoorbell _ pre => postedOk pre
  | .msixMaskClear vec pre => decide (vec ≤ 130) && postedOk pre
  | .frameReceive dst mac rest => decide (dst.length = 6) && decide (mac.length = 6) && decide (2 ≤ rest.length) && decide (rest.length ≤ 1502)
  | .hotChannelWindow counts => counts.all fun e => decide (e.1 < 512) && ctxOk e.2.1
  | .debugPortAccess a => (match a with
    | .readOnChip c _ _ => coreOk c
    | .fabricBeat die => dieOk die
    | .firmware slot _ => decide (slot < 2))
  | .clusterCache _ n _ | .batcherEn _ n _ => decide (1 ≤ n) && decide (n ≤ 32)
  | .flagged _ n _ => decide (1 ≤ n) && decide (n ≤ 32)
  | .pRequest _ n _ => decide (1 ≤ n) && decide (n ≤ 4)
  | .commitArbitration _ _ | .map _ _ | .unmap _ _ | .protect _ _ | .load _ _ _ | .cancelLoad _ _ | .ringEnable _ _ | .ringFormCheck |
    .routeReq _ _ | .timeSet _ _ | .timeRole _ _ | .wfAck _ _ | .graftReq _ _ | .recovery _ _ | .wakeComplete | .perstN |
    .functionLevelReset | .read _ _ _ _ _ | .objectWrite _ _ _ _ | .writeSegment _ _ _ _ _ | .segmentTimeout _ | .discover _ |
    .event | .nvStoreDefaults _ | .nvErase _ | .nvStoreDone _ | .stepTrig | .powerUp _ | .vin48Dip | .vin48Loss | .vaux12Loss |
    .vin48Restored _ | .meterStart _ | .meterSample _ _ _ _ | .mtrPulseEnd | .statusRecord | .meterReadRequest _ _ _ |
    .statusRecordTimeout | .meterPowerDown | .vaux12Restored _ | .powerStateEntryComplete | .perstNDeassert | .busMasterEnable => true
  | .nop _ _ | .addi _ _ | .add _ _ | .sub _ _ | .mul _ _ | .and _ _ | .or _ _ | .xor _ _ | .shl _ _ | .shr _ _ | .sra _ _ |
    .slt _ _ | .sltu _ _ | .lih _ _ | .ld _ _ | .st _ _ | .ldw _ _ | .stw _ _ | .beq _ _ | .bne _ _ | .blt _ _ | .bge _ _ |
    .jal _ _ | .jr _ _ | .missue _ _ | .dissue _ _ | .signal _ _ | .wait _ _ | .dec _ _ | .arrive _ _ | .rset _ _ | .rget _ _ |
    .rflush _ _ | .commit _ _ | .release _ _ | .talloc _ _ | .tload _ _ | .tfree _ _ | .cwb _ _ | .cinv _ _ | .cwbinv _ _ |
    .flags _ _ | .cycle _ _ | .otime _ _ | .endInst _ _ | .vld _ _ | .vst _ _ | .vlds _ _ | .vldt _ _ | .vbcast _ _ |
    .vmovx _ _ | .vadd _ _ | .vsub _ _ | .vmul _ _ | .vfma _ _ | .vdiv _ _ | .vsqrt _ _ | .vmax _ _ | .vmin _ _ | .vcmp _ _ |
    .vsel _ _ | .vcvt _ _ | .vlogic _ _ | .vexp _ _ | .vlog _ _ | .vrsqrt _ _ | .vtanh _ _ | .vsigm _ _ | .vrsum _ _ |
    .vrmax _ _ | .vrmin _ _ | .vdec _ _ | .venc _ _ | .vseg _ _ | .vadamw _ _ | .tsetc _ _ | .tsetb _ _ | .tdrop _ _ => wordOk i

end Sys2Proof
end

