-- ==== Sys2Proof/Safety.lean ====
section
/-! DEFINITION. The terms of the claims: sound states, a core that can execute, and what a command leaves as it was. -/

namespace Sys2Proof

open Sys2Proof.Machine

/-! ### Sound states -/

/-- A core lists each register and engine once, in order. -/
def CoreSound (k : Core) : Prop := Rising k.x ∧ Rising k.v ∧ Rising k.p ∧ Rising k.engines

/-- The regions, DMA slots and cache lines of a cluster are listed once each, in order. -/
def ClusterSound (k : Cluster) : Prop := Rising k.regions ∧ Rising k.dma ∧ Rising k.cache

/-- A sound state: byte memory in canonical form, and every unit of the package listed at most once, in order. Every step keeps it, and
it holds at reset. -/
structure Sound (d : Dev) : Prop where
  mem : Memory.wf d.mem = true
  cores : Rising d.cores
  core : ∀ e ∈ d.cores, CoreSound e.2
  clusters : Rising d.clusters
  cluster : ∀ e ∈ d.clusters, ClusterSound e.2
  tallies : Rising d.tallies
  ctxs : Rising d.ctxs
  links : Rising d.links
  sqs : Rising d.host.sqs
  obj : Rising d.obj
  pages : Rising d.vm.pages
  hbm : Rising d.vm.hbmUsed
  tier : Rising d.vm.tierUsed
  ports : Rising d.ports
  routes : Rising d.routes
  effective : Rising d.power.effective
  throttle : Rising d.power.throttle
  changing : Rising d.power.changing
  poison : Rising d.poison
  upset : Rising d.upset
  live : Rising d.live
  grafts : Rising d.graft.clusters ∧ Rising d.graft.cores ∧ Rising d.graft.columns ∧ Rising d.graft.optics

/-! ### Core instructions -/

/-- Core `c` can execute its next instruction, for run `i`: it exists, runs, is not held, and no vector instruction waits in its queue
(R208, R214, R181). -/
structure Executes (s : State) (c : Nat) (i : Inst) : Prop where
  exists_ : c < 256
  runs : (coreOf s.dev c).status = .running
  free : (coreOf s.dev c).held = false
  inst : (coreOf s.dev c).inst = some i
  drained : (coreOf s.dev c).vq = []

/-- Nothing but core `c` differs between two states. -/
def OnlyCore (c : Nat) (s t : State) : Prop :=
  (∃ ks, t = { s with dev := { s.dev with cores := ks } }) ∧ ∀ c', c' ≠ c → coreOf t.dev c' = coreOf s.dev c'

/-- Core `c` has `v` in its scalar register `rd` and PC `pc`; no other register, core, byte of memory or state differs. -/
def WroteX (s t : State) (c : Nat) (rd : BitVec 5) (v pc : Word) : Prop :=
  OnlyCore c s t ∧ (∃ x, coreOf t.dev c = { coreOf s.dev c with x := x, pc := pc }) ∧
    ∀ r, getX (coreOf t.dev c) r = if r = rd ∧ r ≠ 0 then v else getX (coreOf s.dev c) r

/-- A context after its task `t` has met flags `fl`: they are sticky in the task's flag word (R64). -/
def Flagged (k : Ctx) (t : Nat) (fl : Half) : Ctx :=
  { k with graph := k.graph.map fun g => { g with tasks := upd none g.tasks t (Option.map fun q => { q with flags := q.flags ||| fl }) } }

/-- What a vector operation leaves: core `c` may differ in its vector registers, predicates and lane LFSRs; its PC is one further, and
flags `fl` are added to those of the run and of its task. Nothing else differs. -/
def VectorFrame (s t : State) (c : Nat) (i : Inst) (fl : Half) : Prop :=
  (∃ ks xs, t = { s with dev := { s.dev with cores := ks, ctxs := xs } }) ∧
    (∀ c', c' ≠ c → coreOf t.dev c' = coreOf s.dev c') ∧
    (∃ v p lf, coreOf t.dev c = { coreOf s.dev c with
      v := v, p := p, lfsr := lf, flags := (coreOf s.dev c).flags ||| fl, pc := (coreOf s.dev c).pc + 8 }) ∧
    ∀ x, ctxOf t.dev x = if x = i.ctx then Flagged (ctxOf s.dev x) i.task fl else ctxOf s.dev x

/-- The flags that `n` elements set, each under the predicate of its lane. -/
def flagsOf (p : BitVec 128) (w n : Nat) (fl : Nat → Half) : Half :=
  (List.range n).foldl (fun a e => if p.getLsbD (e * w / 32) then a ||| fl e else a) 0

/-- A vector operation wrote `g e` to every element `e` of `w` bits of register `rd` whose lane is enabled, its flags `fl e` were
raised, and every other element, vector register and predicate is as it was. -/
def WroteElems (s t : State) (c : Nat) (i : Inst) (f : Fields) (w : Nat) (g : Nat → Nat) (fl : Nat → Half) : Prop :=
  let k := coreOf s.dev c
  let p := getP k f.pred
  VectorFrame s t c i (flagsOf p w (4096 / w) fl) ∧ (coreOf t.dev c).p = k.p ∧
    (∀ e, e < 4096 / w →
      elemOf (getV (coreOf t.dev c) f.rd) w e = if p.getLsbD (e * w / 32) then g e % 2 ^ w else elemOf (getV k f.rd) w e) ∧
    ∀ r, r ≠ f.rd → getV (coreOf t.dev c) r = getV k r

/-- No granule that `n` bytes from key `k` touch carries an error or poison mark. -/
def Clean (d : Dev) (k n : Nat) : Prop := marksIn d.upset k n = [] ∧ marksIn d.poison k n = []

end Sys2Proof
end

