-- ==== Sys2Proof/Certificates/Slice0/Obligations.lean ====
section
/-! DEFINITION. The statements for the provers. -/

open Sys2Proof Sys2Proof.Machine

/-! ### The block as a whole -/

/-- A step with a command in front is exec of that command on the state with the queue's rest. -/
def Obligations.StepRunsFront : Prop :=
  ∀ (c : Instr) (r : List Instr) (s : State), step { s with pending := c :: r } = exec c { s with pending := r }

/-- On an empty queue one tick of 1.25 ns passes (R324, R327; the tick itself is the model's choice, log entry 4, DESIGN CHOICE): orchard time counts
one, two or none by its slew, the counter of each core that runs an instance gains the half cycles of its die's P-state, and nothing
else changes where no vector instruction waits in a queue. -/
def Obligations.StepIdles : Prop :=
  ∀ (s : State), s.pending = [] → Sound s.dev → (∀ c, (coreOf s.dev c).vq = []) →
    ∃ t, step s = .next t ∧ t.pending = [] ∧ t.meter = s.meter ∧
      (∃ o ks, t.dev = { s.dev with otime := o, cores := ks }) ∧
      t.dev.otime.count = s.dev.otime.count +
        (if s.dev.otime.slew = 0 ∨ s.dev.otime.phase + 1 < 256 then 1 else if 0 < s.dev.otime.slew then 2 else 0) ∧
      ∀ c, coreOf t.dev c = { coreOf s.dev c with halfCycles := (coreOf s.dev c).halfCycles +
        (if (coreOf s.dev c).inst.isSome then (match look 0 s.dev.power.effective (c / 64) with | 0 => 4 | 1 => 3 | _ => 2) else 0) }

/-- A meter in order: less than a millijoule of remainder, at most 1,024 entries in the log and no more than were ever logged, METER_STATUS
within its three bits, and no pulse left due while the meter runs with MTR_PULSE released. -/
def MeterSound (m : Meter) : Prop :=
  m.remainder < 1000 ∧ m.log.length ≤ 1024 ∧ m.log.length ≤ m.logTotal ∧ m.status < 8 ∧
    (m.running = true → m.pulseLow = false → m.pulsesDue = 0)

/-- What reset leaves: no command waits, the block is sound, PKG_STATE and every context are at their reset values, no core runs, every
register of every core is zero (the model's choice, log entry 3, DESIGN CHOICE), links are OFF, orchard time runs free from 0, no fault or
correctable event is logged, and the meter is in order. -/
def Obligations.ResetState : Prop :=
  State.reset.pending = [] ∧ Sound State.reset.dev ∧
    (∀ x, (ctxOf State.reset.dev x).state = .free ∧ (ctxOf State.reset.dev x).graph = none) ∧
    (∀ c, (coreOf State.reset.dev c).status = .idle ∧ (coreOf State.reset.dev c).inst = none ∧
      (∀ r, getX (coreOf State.reset.dev c) r = 0) ∧ (∀ r, getV (coreOf State.reset.dev c) r = 0) ∧
      getP (coreOf State.reset.dev c) 0 = BitVec.allOnes 128) ∧
    (∀ l, (linkOf State.reset.dev l).state = .off) ∧
    (∀ k, (tallyOf State.reset.dev k).inuse = false ∧ (tallyOf State.reset.dev k).count = 0) ∧
    State.reset.dev.otime.count = 0 ∧ State.reset.dev.otime.hops = 0xFFFF ∧
    State.reset.dev.faults.wf = [] ∧ State.reset.dev.faults.ce = [] ∧ State.reset.meter.running = false ∧
    MeterSound State.reset.meter ∧ og State.reset.dev 0x1000 7 = 0

/-- Every step keeps a sound state sound: byte memory in canonical form, and each core, cluster, tally, context, link, queue and object
listed at most once, in order. -/
def Obligations.SoundKept : Prop :=
  ∀ (s t : State), Sound s.dev → step s = .next t → Sound t.dev

/-- The words of instructions and the commands they stand for agree both ways: every word of a core stands for a command whose word is
that word again, and every operation of R194, R195 and R225 with any fields is read back from its own word. -/
def Obligations.WordsRoundTrip : Prop :=
  (∀ (c : Nat) (w : Word), encodeWord (coreInstr c w) = some (c, w)) ∧
  (∀ (i : Instr) (c : Nat) (op : BitVec 8) (f : Fields), instrOp i = some (c, op, f) →
    (op = 0x22 ∨ op = 0x23 ∨ op = 0x25 → immSelect f = 0) →
    (op = 0x24 → tallyControl c f = some i) →
    coreInstr c (wordOf op f) = i) ∧
  (∀ (op op' : BitVec 8) (f f' : Fields), wordOf op f = wordOf op' f' → op = op' ∧ f = f')

/-- No command stops the block: every well-formed one gives a next state, none faults, and only words that are another command's are
refused, so not well-formed ones. No command touches the queue. -/
def Obligations.WellFormedCompletes : Prop :=
  (∀ (i : Instr) (s : State), i.wf = true → ∃ t, exec i s = .next t ∧ t.pending = s.pending) ∧
  (∀ (i : Instr) (s : State) (r : Fault), exec i s ≠ .fault r) ∧
  (∀ (i : Instr) (s : State) (r : Refusal), exec i s = .refused r → i.wf = false ∧ r = .otherInstruction) ∧
  (∀ (i : Instr) (s : State) (t : State), exec i s = .next t → t.pending = s.pending)

/-- Whether a command is one of the meter die's own (R397 to R407). -/
def isMeterCommand (i : Instr) : Bool :=
  match i with
  | .meterStart _ | .meterSample _ _ _ _ | .mtrPulseEnd | .statusRecord | .meterReadRequest _ _ _ | .meterPowerDown => true
  | _ => false

/-- The meter die stands apart (R397): no command but its own changes it, and an idle tick does not either. -/
def Obligations.MeterApart : Prop :=
  (∀ (i : Instr) (s t : State), isMeterCommand i = false → exec i s = .next t → t.meter = s.meter) ∧
    ∀ (s t : State), s.pending = [] → step s = .next t → t.meter = s.meter

/-- Every step keeps the meter in order, and the energy register, meter time and LOG_TOTAL never decrease; a broken seal stays broken. -/
def Obligations.MeterKept : Prop :=
  ∀ (s t : State), MeterSound s.meter → step s = .next t →
    MeterSound t.meter ∧ s.meter.energy ≤ t.meter.energy ∧ s.meter.time ≤ t.meter.time ∧ s.meter.logTotal ≤ t.meter.logTotal ∧
      (s.meter.broken = true → t.meter.broken = true)

/-- What the meter's commands do (R398, R400 to R403, R406): a start logs POWER_UP with the energy register and CAL_CHECK last; a sample
at 34 V or above adds its microjoules exactly, and as many pulses fall due as multiples of 3,600,000 mJ were passed; the end of a pulse
releases MTR_PULSE unless another pulse is due; power-down logs POWER_DOWN and stops sampling; a status record reaches the management
controller that runs; a request that names no SEALED object is counted, saturating; a silent link is noted. None changes anything else of
the block. -/
def Obligations.MeterCommands : Prop :=
  ∀ (s : State),
    (∀ torn, s.meter.running = false → ∃ t, exec (.meterStart torn) s = .next t ∧ t.dev = s.dev ∧ t.meter.running = true ∧
      t.meter.energy = s.meter.energy ∧ t.meter.remainder = s.meter.remainder ∧ t.meter.time = s.meter.time ∧
      s.meter.logTotal + 2 ≤ t.meter.logTotal ∧
      (t.meter.log.drop (t.meter.log.length - 2)) =
        [meterEntry (s.meter.time / 1000) 0x0001 s.meter.energy, meterEntry (s.meter.time / 1000) 0x0010 t.meter.calCrc.toNat]) ∧
    (∀ uj mv ma tb, s.meter.running = true → 34000 ≤ mv → ∃ t, exec (.meterSample uj mv ma tb) s = .next t ∧ t.dev = s.dev ∧
      1000 * t.meter.energy + t.meter.remainder = 1000 * s.meter.energy + s.meter.remainder + uj ∧ t.meter.remainder < 1000 ∧
      t.meter.pulsesDue + (if t.meter.pulseLow = true ∧ s.meter.pulseLow = false then 1 else 0) =
        s.meter.pulsesDue + (t.meter.energy / 3600000 - s.meter.energy / 3600000) ∧
      t.meter.status.testBit 0 = tb ∧ t.meter.status.testBit 1 = decide (2100000000 < mv * ma) ∧
      t.meter.status.testBit 2 = decide (mv < 40000)) ∧
    (s.meter.running = true → ∃ t, exec .mtrPulseEnd s = .next t ∧ t.dev = s.dev ∧
      t.meter.pulseLow = decide (0 < s.meter.pulsesDue) ∧ t.meter.pulsesDue = s.meter.pulsesDue - 1 ∧ t.meter.energy = s.meter.energy) ∧
    (s.meter.running = true → ∃ t, exec .meterPowerDown s = .next t ∧ t.dev = s.dev ∧ t.meter.running = false ∧
      t.meter.energy = s.meter.energy ∧ t.meter.remainder = s.meter.remainder ∧ t.meter.logTotal = s.meter.logTotal + 1 ∧
      t.meter.log.getLast? = some (meterEntry (s.meter.time / 1000) 0x0002 s.meter.energy)) ∧
    (s.meter.running = true → s.dev.power.vaux = true → bootDone s.dev = true → ∃ t, exec .statusRecord s = .next t ∧
      t.meter.energy = s.meter.energy ∧ t.dev.mgmt.meterSilent = false ∧ t.dev.mgmt.lastEnergy = some s.meter.energy ∧
      t.dev.mgmt.record = (s.meter.energy, if s.meter.samples = 0 then 0 else s.meter.spanUj * 8 / s.meter.samples, s.meter.time / 1000,
        s.meter.mv, s.meter.status, if s.meter.broken then 2 else 1)) ∧
    (∀ idx sub off, s.meter.running = true → isSealed idx sub = false → ∃ t, exec (.meterReadRequest idx sub off) s = .next t ∧
      t.dev = s.dev ∧ t.meter = { s.meter with rejected := if s.meter.rejected = 0xFFFFFFFF then 0xFFFFFFFF else s.meter.rejected + 1 }) ∧
    (∀ idx sub off, isSealed idx sub = true → exec (.meterReadRequest idx sub off) s = .next s) ∧
    exec .statusRecordTimeout s =
      .next { s with dev := { s.dev with mgmt := { s.dev.mgmt with meterSilent := true } } }

/-! ### Scalar instructions -/

/-- The scalar operations that only write xd (R194), and VMOVX (R195): their results, PC one further, nothing else changed, x0 not
written (R176). -/
def Obligations.ScalarArithmetic : Prop :=
  ∀ (s : State) (c : Nat) (i : Inst) (f : Fields), Sound s.dev → Executes s c i →
    let k := coreOf s.dev c
    let a := getX k f.rs1
    let b := getX k f.rs2
    let sh := b.toNat % 64
    let Gives (o : Instr) (v : Word) : Prop := ∃ t, exec o s = .next t ∧ WroteX s t c f.rd v (k.pc + 8)
    Gives (.addi c f) (a + f.imm.signExtend 64) ∧
    Gives (.add c f) (a + b) ∧
    Gives (.sub c f) (a - b) ∧
    Gives (.mul c f) (BitVec.ofNat 64 (a.toNat * b.toNat)) ∧
    Gives (.and c f) (a &&& b) ∧
    Gives (.or c f) (a ||| b) ∧
    Gives (.xor c f) (a ^^^ b) ∧
    Gives (.shl c f) (BitVec.ofNat 64 (a.toNat * 2 ^ sh)) ∧
    Gives (.shr c f) (BitVec.ofNat 64 (a.toNat / 2 ^ sh)) ∧
    Gives (.sra c f) (BitVec.ofInt 64 (a.toInt / 2 ^ sh)) ∧
    Gives (.slt c f) (if a.toInt < b.toInt then 1 else 0) ∧
    Gives (.sltu c f) (if a.toNat < b.toNat then 1 else 0) ∧
    Gives (.lih c f) (BitVec.ofNat 64 (f.imm.toNat * 2 ^ 32 + a.toNat % 2 ^ 32)) ∧
    Gives (.flags c f) (BitVec.ofNat 64 (taskFlags s.dev i.ctx i.task).toNat) ∧
    Gives (.cycle c f) (BitVec.ofNat 64 (k.halfCycles / 2)) ∧
    Gives (.otime c f) s.dev.otime.count ∧
    Gives (.vmovx c f) (BitVec.ofNat 64 ((getV k f.rs1).toNat / 2 ^ (32 * (f.imm.toNat % 128)) % 2 ^ 32))

/-- NOP, branches and jumps (R194): a branch adds 8 × imm when its signed comparison holds, else 8; JAL writes the link; JR goes to an
aligned target. Nothing else changes. -/
def ControlFlowHold : Prop :=
  ∀ (s : State) (c : Nat) (i : Inst) (f : Fields), Sound s.dev → Executes s c i →
    let k := coreOf s.dev c
    let a := getX k f.rs1
    let b := getX k f.rs2
    let there : Word := BitVec.ofInt 64 (k.pc.toInt + 8 * f.imm.toInt)
    let Goes (o : Instr) (pc : Word) : Prop := ∃ t, exec o s = .next t ∧ WroteX s t c 0 0 pc
    (∀ w : Word, w.toNat / 2 ^ 56 = 0 → Goes (.nop c w) (k.pc + 8)) ∧
    Goes (.beq c f) (if a = b then there else k.pc + 8) ∧
    Goes (.bne c f) (if a = b then k.pc + 8 else there) ∧
    Goes (.blt c f) (if a.toInt < b.toInt then there else k.pc + 8) ∧
    Goes (.bge c f) (if b.toInt ≤ a.toInt then there else k.pc + 8) ∧
    (∃ t, exec (.jal c f) s = .next t ∧ WroteX s t c f.rd (k.pc + 8) there) ∧
    (a.toNat % 8 = 0 → Goes (.jr c f) a)

/-- END completes the run (R194, R211): the core is idle and free for the next run, the task has one more run ended, and the flags of the
run stay with the task. No byte of memory changes. -/
def EndCompletesRunHold : Prop :=
  ∀ (s : State) (c : Nat) (i : Inst) (f : Fields) (q : TaskSt), Sound s.dev → Executes s c i → (coreOf s.dev c).tload = none →
    taskOf s.dev i.ctx i.task = some q →
    ∃ t q', exec (.endInst c f) s = .next t ∧ (coreOf t.dev c).status = .idle ∧ (coreOf t.dev c).inst = none ∧
      (∀ r, getX (coreOf t.dev c) r = getX (coreOf s.dev c) r) ∧ (∀ c', c' ≠ c → coreOf t.dev c' = coreOf s.dev c') ∧
      taskOf t.dev i.ctx i.task = some q' ∧ q'.ended = q.ended ++ [c] ∧ q'.flags = q.flags ||| (coreOf s.dev c).flags ∧
      q'.phase = q.phase ∧ q'.fault = q.fault ∧ ∀ a, readByte t.dev.mem a = readByte s.dev.mem a

/-- Control flow (R194, R211): NOP, branches and jumps, and END, which completes the run. -/
def Obligations.ControlFlow : Prop := ControlFlowHold ∧ EndCompletesRunHold

/-- The memory of R137 and R151 that `n` bytes at a core-local address of core `c` lie in, as the key of their first byte: the core's own
6 MiB, or the scratchpad part of its cluster's shared memory. -/
def LocalBytes (d : Dev) (c a n k : Nat) : Prop :=
  (a + n ≤ 0x600000 ∧ k = spKey c a) ∨
    (0x600000 < a + n ∧ 0x1000000 ≤ a ∧ a + n ≤ 0x1000000 + sharedSize d (c / 8) ∧ k = shKey (c / 8) (a - 0x1000000))

/-- LD, LDW, ST and STW of core-local memory that meets no memory error (R137, R194): a load takes its bytes little-endian, LDW
zero-extended, and changes nothing else; a store leaves xs2 in its 8 or 4 bytes, every other byte of memory reads as before, and no
register, core or other state changes but PC. -/
def Obligations.LocalLoadsStores : Prop :=
  ∀ (s : State) (c : Nat) (i : Inst) (f : Fields) (a k : Nat), Sound s.dev → Executes s c i → bankFlagged s.dev c 8 = false →
    a < 2 ^ 32 → getX (coreOf s.dev c) f.rs1 + f.imm.signExtend 64 = BitVec.ofNat 64 a → Clean s.dev (8 * (k / 8)) 8 →
    let Stores (o : Instr) (n : Nat) : Prop := ∃ t m p u, exec o s = .next t ∧ OnlyCore c { s with dev := { s.dev with
        mem := m, poison := p, upset := u } } t ∧
      coreOf t.dev c = { coreOf s.dev c with pc := (coreOf s.dev c).pc + 8 } ∧
      (∀ j, j < n → readByte t.dev.mem (k + j) = BitVec.ofNat 8 ((getX (coreOf s.dev c) f.rs2).toNat / 256 ^ j)) ∧
      ∀ x, ¬ (k ≤ x ∧ x < k + n) → readByte t.dev.mem x = readByte s.dev.mem x
    let Loads (o : Instr) (n : Nat) : Prop := ∃ t, exec o s = .next t ∧
      WroteX s t c f.rd (BitVec.ofNat 64 (leNat ((List.range n).map fun j => readByte s.dev.mem (k + j)))) ((coreOf s.dev c).pc + 8)
    (a % 8 = 0 → LocalBytes s.dev c a 8 k → Stores (.st c f) 8 ∧ Loads (.ld c f) 8) ∧
      (a % 4 = 0 → LocalBytes s.dev c a 4 k → Stores (.stw c f) 4 ∧ Loads (.ldw c f) 4)

/-- The key at which a mapped page holds the byte at `va` (R245, R247): in its frame of HBM or the tier, or in host memory. -/
def PageByte (d : Dev) (x va k : Nat) (p : Page) : Prop :=
  pageAt d x va = some p ∧ ((p.kind = 2 ∧ d.host.busMaster = true ∧ k = hostKey (p.addr + va % 65536)) ∨
    (p.kind < 2 ∧ ∃ f, p.frame = some f ∧ k = frameKey p.kind f + va % 2097152))

/-- LD, LDW, ST and STW of device virtual memory by a cluster without a cache, on a mapped page that meets no memory error (R154, R178,
R245): a load gives the page's bytes and changes no byte; a store, where the page is writable, changes exactly its own bytes. -/
def DeviceLoadsStoresHold : Prop :=
  ∀ (s : State) (c : Nat) (i : Inst) (f : Fields) (va k : Nat) (p : Page), Sound s.dev → Executes s c i → bankFlagged s.dev c 8 = false →
    cacheLines s.dev (c / 8) = 0 → va < 2 ^ 52 → getX (coreOf s.dev c) f.rs1 + f.imm.signExtend 64 = BitVec.ofNat 64 (2 ^ 63 + va) →
    PageByte s.dev i.ctx va k p → Clean s.dev (8 * (k / 8)) 8 →
    let Loads (o : Instr) (n : Nat) : Prop := ∃ t, exec o s = .next t ∧ t.dev.mem = s.dev.mem ∧
      (∃ x, coreOf t.dev c = { coreOf s.dev c with x := x, pc := (coreOf s.dev c).pc + 8 }) ∧
      ∀ r, getX (coreOf t.dev c) r = if r = f.rd ∧ r ≠ 0 then
        BitVec.ofNat 64 (leNat ((List.range n).map fun j => readByte s.dev.mem (k + j))) else getX (coreOf s.dev c) r
    let Stores (o : Instr) (n : Nat) : Prop := ∃ t, exec o s = .next t ∧
      coreOf t.dev c = { coreOf s.dev c with pc := (coreOf s.dev c).pc + 8 } ∧
      (∀ j, j < n → readByte t.dev.mem (k + j) = BitVec.ofNat 8 ((getX (coreOf s.dev c) f.rs2).toNat / 256 ^ j)) ∧
      ∀ x, ¬ (k ≤ x ∧ x < k + n) → readByte t.dev.mem x = readByte s.dev.mem x
    (va % 8 = 0 → k % 8 = 0 → Loads (.ld c f) 8 ∧ (p.w = true → Stores (.st c f) 8)) ∧
      (va % 4 = 0 → k % 4 = 0 → Loads (.ldw c f) 4 ∧ (p.w = true → Stores (.stw c f) 4))

/-- Where a core's instruction faults: the run's task gets code and detail, its runs stop, its graph dispatches no more (R214). -/
def Faults (s t : State) (i : Inst) (c code : Nat) (detail : Word) : Prop :=
  t = { s with dev := taskFail s.dev i.ctx i.task c code detail }

/-- BAD_INSTRUCTION with the instruction's address for words of no listed operation, for RM 5 to 7 in an operation that rounds and for a
TYPE that the operation does not accept, while fields that an operation does not use are ignored (R180); BAD_ADDRESS for a misaligned load,
store or JR target (R178, R194). Nothing of the instruction is performed. -/
def Obligations.InstructionFaults : Prop :=
  ∀ (s : State) (c : Nat) (i : Inst) (f : Fields), Executes s c i →
    let k := coreOf s.dev c
    let a := (getX k f.rs1 + f.imm.signExtend 64).toNat
    let Bad (o : Instr) : Prop := ∃ t, exec o s = .next t ∧ Faults s t i c 0x1001 k.pc
    let BadAddress (o : Instr) : Prop := ∃ t, exec o s = .next t ∧ Faults s t i c 0x1002 k.pc
    let listed (op : Nat) : Prop := op ≤ 0x0D ∨ (0x10 ≤ op ∧ op ≤ 0x13) ∨ (0x18 ≤ op ∧ op ≤ 0x1D) ∨ (0x20 ≤ op ∧ op ≤ 0x25) ∨
      (0x28 ≤ op ∧ op ≤ 0x2C) ∨ (0x30 ≤ op ∧ op ≤ 0x32) ∨ (0x34 ≤ op ∧ op ≤ 0x36) ∨ (0x38 ≤ op ∧ op ≤ 0x3A) ∨ (0x3F ≤ op ∧ op ≤ 0x45) ∨
      (0x48 ≤ op ∧ op ≤ 0x53) ∨ (0x58 ≤ op ∧ op ≤ 0x5C) ∨ (0x60 ≤ op ∧ op ≤ 0x62) ∨ (0x68 ≤ op ∧ op ≤ 0x6A) ∨ op = 0x70
    let Ignores (o : Fields → Instr) (g : Fields) : Prop := exec (o g) s = exec (o f) s
    (∀ w : Word, ¬ listed (wordOp w).toNat → coreInstr c w = .nop c w ∧ Bad (.nop c w)) ∧
    (∀ w : Word, wordOp w ≠ 0 → coreInstr c w = .nop c w → Bad (.nop c w)) ∧
    (∀ (r p t : BitVec 3), ∀ o ∈ [Instr.addi c, .add c, .sub c, .mul c, .and c, .or c, .xor c, .shl c, .shr c, .sra c, .slt c, .sltu c, .lih c,
      .ld c, .st c, .ldw c, .stw c, .beq c, .bne c, .blt c, .bge c, .jal c, .jr c, .missue c, .dissue c, .signal c, .wait c, .dec c, .arrive c,
      .rset c, .rget c, .rflush c, .commit c, .release c, .talloc c, .tload c, .tfree c, .cwb c, .cinv c, .cwbinv c, .flags c, .cycle c,
      .otime c, .endInst c, .vmovx c], Ignores o { f with rm := r, pred := p, ty := t }) ∧
    (∀ (r t : BitVec 3), ∀ o ∈ [Instr.vld c, .vst c, .vlds c, .vldt c, .vbcast c, .vsel c, .vlogic c, .vdec c, .vseg c],
      Ignores o { f with rm := r, ty := t }) ∧
    (∀ r : BitVec 3, ∀ o ∈ [Instr.vmax c, .vmin c, .vcmp c, .vexp c, .vlog c, .vrsqrt c, .vtanh c, .vsigm c, .vrsum c, .vrmax c, .vrmin c],
      Ignores o { f with rm := r }) ∧
    (∀ t : BitVec 3, ∀ o ∈ [Instr.venc c, .vadamw c], Ignores o { f with ty := t }) ∧
    (4 < f.rm.toNat ∨ 3 < f.ty.toNat → Bad (.vadd c f) ∧ Bad (.vsub c f) ∧ Bad (.vmul c f) ∧ Bad (.vfma c f) ∧ Bad (.vcvt c f)) ∧
    (bankFlagged s.dev c 7 = false → 4 < f.rm.toNat → Bad (.venc c f) ∧ Bad (.vadamw c f)) ∧
    (4 < f.rm.toNat ∨ f.ty ≠ 0 → Bad (.vdiv c f) ∧ Bad (.vsqrt c f)) ∧
    (f.ty ≠ 0 → Bad (.vexp c f) ∧ Bad (.vlog c f) ∧ Bad (.vrsqrt c f) ∧ Bad (.vtanh c f) ∧ Bad (.vsigm c f) ∧
      Bad (.vrsum c f) ∧ Bad (.vrmax c f) ∧ Bad (.vrmin c f)) ∧
    (3 < f.ty.toNat → Bad (.vmax c f) ∧ Bad (.vmin c f) ∧ Bad (.vcmp c f)) ∧
    ((getX k f.rs1).toNat % 8 ≠ 0 → BadAddress (.jr c f)) ∧
    (bankFlagged s.dev c 8 = false → (a % 8 ≠ 0 → BadAddress (.ld c f) ∧ BadAddress (.st c f)) ∧
      (a % 4 ≠ 0 → BadAddress (.ldw c f) ∧ BadAddress (.stw c f)))

/-- A load or store of device virtual memory whose page is not mapped pauses the core at that instruction (R197, R258): the context has one
more unanswered fault record, which names the address, the core and the access; the core's registers and PC and every byte of memory are as
they were. -/
def PageFaultPausesHold : Prop :=
  ∀ (s : State) (c : Nat) (i : Inst) (f : Fields) (va : Nat), Sound s.dev → Executes s c i → bankFlagged s.dev c 8 = false →
    va + 8 ≤ 2 ^ 52 → va % 8 = 0 → getX (coreOf s.dev c) f.rs1 + f.imm.signExtend 64 = BitVec.ofNat 64 (2 ^ 63 + va) →
    pageAt s.dev i.ctx va = none →
    let Pauses (o : Instr) (wr : Bool) : Prop := ∃ t, exec o s = .next t ∧
      coreOf t.dev c = { coreOf s.dev c with status := .paused, fault := some s.dev.nextFault } ∧
      (∀ c', c' ≠ c → coreOf t.dev c' = coreOf s.dev c') ∧
      (ctxOf t.dev i.ctx).faults = (ctxOf s.dev i.ctx).faults ++
        [⟨1, i.ctx, wr, true, false, s.dev.nextFault, va, c, 0xFFFF, s.dev.otime.count⟩] ∧
      t.dev.nextFault = (s.dev.nextFault + 1) % 2 ^ 32 ∧ ∀ a, readByte t.dev.mem a = readByte s.dev.mem a
    Pauses (.ld c f) false ∧ Pauses (.st c f) true

/-- Loads and stores of device virtual memory (R154, R178, R197, R245, R258): on a mapped page, and on one that is not mapped. -/
def Obligations.DeviceLoadsStores : Prop := DeviceLoadsStoresHold ∧ PageFaultPausesHold

/-- The cache operations of R194 over a range of device virtual memory (R154) complete: afterwards no line of the context in the range is
dirty or modified in a core (CWB), or none is held at all (CINV, CWBINV); CINV writes no byte of memory. Of a range within one line that is
dirty and that no core holds, on a writable page that meets no memory error, CWB and CWBINV write the line's bytes to its page and no other
byte, and CINV leaves memory as it is. -/
def Obligations.CacheOperations : Prop :=
  ∀ (s : State) (c : Nat) (i : Inst) (f : Fields) (va : Nat), Sound s.dev → Executes s c i → va < 2 ^ 52 →
    getX (coreOf s.dev c) f.rs1 = BitVec.ofNat 64 (2 ^ 63 + va) →
    let n := (getX (coreOf s.dev c) f.rs2).toNat
    let inRange (l : Nat) : Prop := 0 < n ∧ va < 64 * l + 64 ∧ 64 * l < va + n
    (∃ t, exec (.cwb c f) s = .next t ∧ (coreOf t.dev c).pc = (coreOf s.dev c).pc + 8 ∧
      ∀ l v, inRange l → lineAt t.dev (c / 8) l = some v → v.ctx = i.ctx → v.dirty = false ∧
        ∀ j u, j < 8 → dLineAt t.dev (8 * (c / 8) + j) l = some u → u.state ≤ 2) ∧
    (∃ t, exec (.cinv c f) s = .next t ∧ (coreOf t.dev c).pc = (coreOf s.dev c).pc + 8 ∧ t.dev.mem = s.dev.mem ∧
      (∀ l v, inRange l → lineAt t.dev (c / 8) l = some v → v.ctx ≠ i.ctx) ∧
      ∀ l, ¬ inRange l → lineAt t.dev (c / 8) l = lineAt s.dev (c / 8) l) ∧
    (∃ t, exec (.cwbinv c f) s = .next t ∧ (coreOf t.dev c).pc = (coreOf s.dev c).pc + 8 ∧
      ∀ l v, inRange l → lineAt t.dev (c / 8) l = some v → v.ctx ≠ i.ctx) ∧
    ∀ v k p, 0 < n → va % 64 + n ≤ 64 → lineAt s.dev (c / 8) (va / 64) = some v → v.ctx = i.ctx → v.dirty = true → v.data.length = 64 →
      (∀ j, j < 8 → dLineAt s.dev (8 * (c / 8) + j) (va / 64) = none) → PageByte s.dev i.ctx (64 * (va / 64)) k p → p.w = true →
      k % 64 = 0 → s.dev.upset = [] → s.dev.poison = [] →
      let Written (o : Instr) (w : Option CacheLine) : Prop := ∃ t, exec o s = .next t ∧ lineAt t.dev (c / 8) (va / 64) = w ∧
        (coreOf t.dev c).pc = (coreOf s.dev c).pc + 8 ∧ (∀ j, j < 64 → readByte t.dev.mem (k + j) = v.data.getD j 0) ∧
        ∀ a, ¬ (k ≤ a ∧ a < k + 64) → readByte t.dev.mem a = readByte s.dev.mem a
      Written (.cwb c f) (some { v with dirty := false }) ∧ Written (.cwbinv c f) none ∧
        ∃ t, exec (.cinv c f) s = .next t ∧ lineAt t.dev (c / 8) (va / 64) = none ∧ t.dev.mem = s.dev.mem

/-! ### Vector instructions -/

/-- i16 and i32 element-wise arithmetic (R184): i32 wraps modulo 2^32 and raises nothing; i16 is exact, then held at −32,768 or 32,767
with OF. A lane whose predicate is 0 keeps its destination and sets no flag (R183). -/
def Obligations.VectorIntegers : Prop :=
  ∀ (s : State) (c : Nat) (i : Inst) (f : Fields), Sound s.dev → Executes s c i → f.rm.toNat ≤ 4 →
    let k := coreOf s.dev c
    let src (w : Nat) (r : BitVec 5) (e : Nat) : BitVec w := BitVec.ofNat w (elemOf (getV k r) w e)
    let Wraps (o : Instr) (g : BitVec 32 → BitVec 32 → BitVec 32 → BitVec 32) : Prop := ∃ t, exec o s = .next t ∧
      WroteElems s t c i f 32 (fun e => (g (src 32 f.rs1 e) (src 32 f.rs2 e) (src 32 (rs3 f) e)).toNat) (fun _ => 0)
    let Holds (o : Instr) (g : Int → Int → Int → Int) : Prop := ∃ t, exec o s = .next t ∧
      let v (e : Nat) : Int := g (src 16 f.rs1 e).toInt (src 16 f.rs2 e).toInt (src 16 (rs3 f) e).toInt
      WroteElems s t c i f 16 (fun e => (BitVec.ofInt 16 (max (-32768) (min 32767 (v e)))).toNat)
        (fun e => if v e < -32768 ∨ 32767 < v e then fOF else 0)
    (f.ty = 3 → Wraps (.vadd c f) (fun a b _ => a + b) ∧ Wraps (.vsub c f) (fun a b _ => a - b) ∧
      Wraps (.vmul c f) (fun a b _ => a * b) ∧ Wraps (.vfma c f) (fun a b z => a * b + z)) ∧
    (f.ty = 2 → Holds (.vadd c f) (fun a b _ => a + b) ∧ Holds (.vsub c f) (fun a b _ => a - b) ∧
      Holds (.vmul c f) (fun a b _ => a * b) ∧ Holds (.vfma c f) (fun a b z => a * b + z))

/-- The rounding direction of element `e` of `w` bits (R179, R186): by RM; the stochastic one takes the state of its lane's LFSR after
the step that belongs to the element. -/
def roundingOf (k : Core) (f : Fields) (w e : Nat) : RMode :=
  match f.rm.toNat with
  | 0 => .rne
  | 1 => .rtz
  | 2 => .rup
  | 3 => .rdn
  | _ => .sr (lfsrSteps (e % (32 / w) + 1) (BitVec.ofNat 16 (k.lfsr.toNat / 2 ^ (16 * (e * w / 32))))).toNat

/-- f32 arithmetic is binary32 arithmetic rounded by RM, f8 arithmetic is exact and rounded once to F8, a NaR propagating with NR (R184).
The lane LFSRs step once for each element that a lane holds when RM is 4, and else not at all (R186). -/
def Obligations.VectorFloats : Prop :=
  ∀ (s : State) (c : Nat) (i : Inst) (f : Fields), Sound s.dev → Executes s c i → f.rm.toNat ≤ 4 →
    let k := coreOf s.dev c
    let src (w : Nat) (r : BitVec 5) (e : Nat) : BitVec w := BitVec.ofNat w (elemOf (getV k r) w e)
    let Steps (t : State) (n : Nat) : Prop := ∀ l, l < 128 → BitVec.ofNat 16 ((coreOf t.dev c).lfsr.toNat / 2 ^ (16 * l)) =
      lfsrSteps (if f.rm = 4 then n else 0) (BitVec.ofNat 16 (k.lfsr.toNat / 2 ^ (16 * l)))
    let Single (o : Instr) (g : RMode → W32 → W32 → W32 → W32 × Half) : Prop := ∃ t, exec o s = .next t ∧ Steps t 1 ∧
      let r (e : Nat) := g (roundingOf k f 32 e) (src 32 f.rs1 e) (src 32 f.rs2 e) (src 32 (rs3 f) e)
      WroteElems s t c i f 32 (fun e => (r e).1.toNat) (fun e => (r e).2)
    let Eight (o : Instr) (g : Dy → Dy → Dy → Dy) (uses : Bool) : Prop := ∃ t, exec o s = .next t ∧ Steps t 4 ∧
      let r (e : Nat) : Byte × Half :=
        match f8Val (src 8 f.rs1 e), f8Val (src 8 f.rs2 e), f8Val (src 8 (rs3 f) e) with
        | .num m1 e1, .num m2 e2, .num m3 e3 => f8Round (roundingOf k f 8 e) (g ⟨m1, e1⟩ ⟨m2, e2⟩ ⟨m3, e3⟩)
        | .num m1 e1, .num m2 e2, .nar =>
          if uses then (f8NaR, fNR) else f8Round (roundingOf k f 8 e) (g ⟨m1, e1⟩ ⟨m2, e2⟩ ⟨0, 0⟩)
        | _, _, _ => (f8NaR, fNR)
      WroteElems s t c i f 8 (fun e => (r e).1.toNat) (fun e => (r e).2)
    (f.ty = 0 → Single (.vadd c f) (fun m a b _ => f32Add m a b) ∧ Single (.vsub c f) (fun m a b _ => f32Sub m a b) ∧
      Single (.vmul c f) (fun m a b _ => f32Mul m a b) ∧ Single (.vfma c f) f32Fma ∧
      Single (.vdiv c f) (fun m a b _ => f32Div m a b) ∧ Single (.vsqrt c f) (fun m a _ _ => f32Sqrt m a)) ∧
    (f.ty = 1 → Eight (.vadd c f) (fun a b _ => a.add b) false ∧ Eight (.vsub c f) (fun a b _ => a.add b.neg) false ∧
      Eight (.vmul c f) (fun a b _ => a.mul b) false ∧ Eight (.vfma c f) (fun a b z => (a.mul b).add z) true)

/-- Broadcast, select and logic (R195) act on every enabled lane whatever TYPE and RM read, raise no flag and leave the LFSRs. -/
def VectorLanesHold : Prop :=
  ∀ (s : State) (c : Nat) (i : Inst) (f : Fields), Sound s.dev → Executes s c i →
    let k := coreOf s.dev c
    let a (l : Nat) : W32 := lane (getV k f.rs1) l
    let b (l : Nat) : W32 := lane (getV k f.rs2) l
    let Gives (o : Instr) (g : Nat → W32) : Prop := ∃ t, exec o s = .next t ∧
      WroteElems s t c i f 32 (fun l => (g l).toNat) (fun _ => 0) ∧ (coreOf t.dev c).lfsr = k.lfsr
    Gives (.vbcast c f) (fun _ => BitVec.ofNat 32 (getX k f.rs1).toNat) ∧
    Gives (.vsel c f) (fun l => if (getP k (BitVec.ofNat 3 f.imm.toNat)).getLsbD l then a l else b l) ∧
    Gives (.vlogic c f) (fun l => match f.imm.toNat % 4 with
      | 0 => a l &&& b l
      | 1 => a l ||| b l
      | 2 => a l ^^^ b l
      | _ => a l &&& ~~~(b l))

/-- VMAX, VMIN and VCMP (R185): of integers by their signed order; of f8 codes by value, a NaR operand giving NaR with NR and comparing
false except "not equal"; of f32 by the IEEE maximum, minimum and comparison predicates. VCMP writes predicate RD[2:0], for f8 and i16
from the lowest element of each lane, and a disabled lane keeps its bit. -/
def MaxMinCompareHold : Prop :=
  ∀ (s : State) (c : Nat) (i : Inst) (f : Fields), Sound s.dev → Executes s c i →
    let k := coreOf s.dev c
    let src (w : Nat) (r : BitVec 5) (e : Nat) : BitVec w := BitVec.ofNat w (elemOf (getV k r) w e)
    let Ints (o : Instr) (w : Nat) (g : Int → Int → Int) : Prop := ∃ t, exec o s = .next t ∧
      WroteElems s t c i f w (fun e => (BitVec.ofInt w (g (src w f.rs1 e).toInt (src w f.rs2 e).toInt)).toNat) (fun _ => 0)
    let Eight (o : Instr) (isMax : Bool) : Prop := ∃ t, exec o s = .next t ∧
      let r (e : Nat) : Byte × Half :=
        match f8Val (src 8 f.rs1 e), f8Val (src 8 f.rs2 e) with
        | .num m1 e1, .num m2 e2 => (if Dy.lt ⟨m1, e1⟩ ⟨m2, e2⟩ = isMax then src 8 f.rs2 e else src 8 f.rs1 e, 0)
        | _, _ => (f8NaR, fNR)
      WroteElems s t c i f 8 (fun e => (r e).1.toNat) (fun e => (r e).2)
    let Single (o : Instr) (isMax : Bool) : Prop := ∃ t, exec o s = .next t ∧
      WroteElems s t c i f 32 (fun e => (f32MaxMin isMax (src 32 f.rs1 e) (src 32 f.rs2 e)).1.toNat)
        (fun e => (f32MaxMin isMax (src 32 f.rs1 e) (src 32 f.rs2 e)).2)
    let Compares (w : Nat) (r : Nat → Bool × Half) : Prop := ∃ t, exec (.vcmp c f) s = .next t ∧
      VectorFrame s t c i (flagsOf (getP k f.pred) 32 128 fun l => (r (l * (32 / w))).2) ∧ (coreOf t.dev c).v = k.v ∧
      (∀ q, q ≠ BitVec.ofNat 3 f.rd.toNat → getP (coreOf t.dev c) q = getP k q) ∧
      (BitVec.ofNat 3 f.rd.toNat ≠ 0 → ∀ l, l < 128 → (getP (coreOf t.dev c) (BitVec.ofNat 3 f.rd.toNat)).getLsbD l =
        if (getP k f.pred).getLsbD l then (r (l * (32 / w))).1 else (getP k (BitVec.ofNat 3 f.rd.toNat)).getLsbD l)
    let ints (w : Nat) (e : Nat) : Bool × Half :=
      let a := (src w f.rs1 e).toInt
      let b := (src w f.rs2 e).toInt
      (match f.imm.toNat % 4 with | 0 => decide (a = b) | 1 => decide (a < b) | 2 => decide (a ≤ b) | _ => decide (a ≠ b), 0)
    let eights (e : Nat) : Bool × Half :=
      (match f8Val (src 8 f.rs1 e), f8Val (src 8 f.rs2 e) with
        | .num m1 e1, .num m2 e2 =>
          let lt := Dy.lt ⟨m1, e1⟩ ⟨m2, e2⟩
          let gt := Dy.lt ⟨m2, e2⟩ ⟨m1, e1⟩
          (match f.imm.toNat % 4 with | 0 => !lt && !gt | 1 => lt | 2 => !gt | _ => lt || gt)
        | _, _ => decide (f.imm.toNat % 4 = 3), 0)
    (f.ty = 3 → Ints (.vmax c f) 32 max ∧ Ints (.vmin c f) 32 min ∧ Compares 32 (ints 32)) ∧
    (f.ty = 2 → Ints (.vmax c f) 16 max ∧ Ints (.vmin c f) 16 min ∧ Compares 16 (ints 16)) ∧
    (f.ty = 1 → Eight (.vmax c f) true ∧ Eight (.vmin c f) false ∧ Compares 8 eights) ∧
    (f.ty = 0 → Single (.vmax c f) true ∧ Single (.vmin c f) false ∧
      Compares 32 fun e => f32Cmp (f.imm.toNat % 4) (src 32 f.rs1 e) (src 32 f.rs2 e))

/-- Operations on lanes and element comparisons (R188, R189, R195). -/
def Obligations.VectorLanes : Prop := VectorLanesHold ∧ MaxMinCompareHold

/-- Bits of an element by TYPE (R184, R428). -/
def elemWidth (ty : Nat) : Nat := if ty = 1 then 8 else if ty = 2 then 16 else 32

/-- The place of pair `e` in a register: in the slice that begins at `p0` when it is the denser one (R428). -/
def sliced (denser : Bool) (p0 e : Nat) : Nat := if denser then p0 + e else e

/-- VCVT (R195, R428): pair `e` of the sparser register and slice p = IMM[4:3] of the denser one; a pair whose source lane is enabled is
converted, rounding with its source lane's LFSR, and every other element of the destination stays. The results of the table of R195 for
NaN, infinities and whole numbers, and of R428 between the integer types. -/
def Obligations.ConvertElements : Prop :=
  (∀ (s : State) (c : Nat) (i : Inst) (f : Fields), Sound s.dev → Executes s c i → f.rm.toNat ≤ 4 → f.ty.toNat ≤ 3 → f.imm.toNat % 8 ≤ 4 →
    let k := coreOf s.dev c
    let p := getP k f.pred
    let wa := elemWidth f.ty.toNat
    let wb := elemWidth (f.imm.toNat % 8)
    let n := 4096 / max wa wb
    let p0 := f.imm.toNat / 8 % 4 % (max wa wb / min wa wb) * n
    let from_ (e : Nat) : Nat := sliced (decide (wa < wb)) p0 e
    let into (e : Nat) : Nat := sliced (decide (wb < wa)) p0 e
    let r (e : Nat) : Nat × Half := convert (roundingOf k f wa (from_ e)) i.ftz f.ty.toNat (f.imm.toNat % 8) (elemOf (getV k f.rs1) wa (from_ e))
    ∃ t, exec (.vcvt c f) s = .next t ∧
      VectorFrame s t c i ((List.range n).foldl (fun a e => if p.getLsbD (from_ e * wa / 32) then a ||| (r e).2 else a) 0) ∧
      (∀ e, e < n → elemOf (getV (coreOf t.dev c) f.rd) wb (into e) =
        if p.getLsbD (from_ e * wa / 32) then (r e).1 % 2 ^ wb else elemOf (getV k f.rd) wb (into e)) ∧
      (∀ e, e < 4096 / wb → (∀ e', e' < n → into e' ≠ e) → elemOf (getV (coreOf t.dev c) f.rd) wb e = elemOf (getV k f.rd) wb e) ∧
      ∀ q, q ≠ f.rd → getV (coreOf t.dev c) q = getV k q) ∧
  (∀ (m : RMode) (z : Bool), convert m z 0 2 0x7F800000 = (32767, fOF) ∧ convert m z 0 2 0xFF800000 = (0x8000, fOF) ∧
    convert m z 0 3 0x7F800000 = (2147483647, fOF) ∧ convert m z 0 3 0xFF800000 = (0x80000000, fOF) ∧
    convert m z 0 2 0x7FC00000 = (0, fNR) ∧ convert m z 0 3 0x7F800001 = (0, fNR) ∧ convert m z 1 3 0x80 = (0, fNR) ∧
    convert m z 0 3 0x80000000 = (0, 0)) ∧
  ∀ (m : RMode) (z : Bool) (v : BitVec 32) (u : BitVec 16),
    convert m z 3 2 v.toNat = ((BitVec.ofInt 16 (max (-32768) (min 32767 v.toInt))).toNat, if v.toInt < -32768 ∨ 32767 < v.toInt then fOF else 0) ∧
    convert m z 2 3 u.toNat = ((BitVec.ofInt 32 u.toInt).toNat, 0)

/-- The special functions give their exact values where R188 states one; elsewhere their result lies within R188's bound of the correctly
rounded one, in units in the last place, and sets NX. Every enabled lane gets the result and the flags of one function of its bits. Which
result within the bound is the reference routine's, which the spec leaves out (log entry 20, DESIGN CHOICE). -/
def Obligations.SpecialFunctions : Prop :=
  (∀ (s : State) (c : Nat) (i : Inst) (f : Fields), Sound s.dev → Executes s c i → f.ty = 0 →
    let k := coreOf s.dev c
    let a (e : Nat) : W32 := lane (getV k f.rs1) e
    let Gives (o : Instr) (fn : Nat) (known : List (W32 × W32 × Half)) : Prop := ∃ t, exec o s = .next t ∧
      WroteElems s t c i f 32 (fun e => (special fn (a e)).1.toNat) (fun e => (special fn (a e)).2) ∧ (coreOf t.dev c).lfsr = k.lfsr ∧
      ∀ x ∈ known, special fn x.1 = x.2
    Gives (.vexp c f) 0 [(0x00000000, 0x3F800000, 0), (0xFF800000, 0, 0), (0x7F800000, 0x7F800000, 0), (0x7FC00000, 0x7FC00000, fNR)] ∧
    Gives (.vlog c f) 1 [(0x3F800000, 0, 0), (0x00000000, 0xFF800000, fOF), (0xBF800000, 0x7FC00000, fNR), (0x7F800000, 0x7F800000, 0)] ∧
    Gives (.vrsqrt c f) 2 [(0x40800000, 0x3F000000, 0), (0x00000000, 0x7F800000, fOF), (0xBF800000, 0x7FC00000, fNR), (0x7F800000, 0, 0)] ∧
    Gives (.vtanh c f) 3 [(0x00000000, 0x00000000, 0), (0x80000000, 0x80000000, 0), (0x7F800000, 0x3F800000, 0), (0xFF800000, 0xBF800000, 0)] ∧
    Gives (.vsigm c f) 4 [(0x00000000, 0x3F000000, 0), (0x7F800000, 0x3F800000, 0), (0xFF800000, 0, 0)]) ∧
  ∀ (fn : Nat) (w : W32) (v : Dy) (uf of_ : Bool), fn ≤ 4 →
    (freeResult fn w v uf of_).2 &&& fNX = fNX ∧
    ∃ k : Int, -(ulpBound fn : Int) ≤ k ∧ k ≤ ulpBound fn ∧ (freeResult fn w v uf of_).1 = ulpsAway (f32Round .rne false v).1 k

/-- One level of the reduction tree of R189: neighbours in pairs, a disabled lane passing its partner unchanged. -/
def pairUp (op : W32 → W32 → W32 × Half) (v : Nat → Option W32 × Half) (j : Nat) : Option W32 × Half :=
  match v (2 * j), v (2 * j + 1) with
  | (some x, fx), (some y, fy) => (some (op x y).1, fx ||| fy ||| (op x y).2)
  | (some x, fx), (none, fy) => (some x, fx ||| fy)
  | (none, fx), (y, fy) => (y, fx ||| fy)

/-- VRSUM, VRMAX and VRMIN reduce the lanes over the fixed binary tree of R189: seven levels of pairs, every combination one binary32
operation. A disabled lane enters VRSUM as +0 and the others as absence; with every lane disabled the result is +0. The result is lane 0,
and lanes 1 to 127 are +0, whatever the predicate. A NaN result is the canonical one and sets NR (R53, R425), where it passed unchanged
too (log entry 134, DEDUCED). -/
def Obligations.Reductions : Prop :=
  ∀ (s : State) (c : Nat) (i : Inst) (f : Fields), Sound s.dev → Executes s c i → f.ty = 0 →
    let k := coreOf s.dev c
    let p := getP k f.pred
    let Reduces (o : Instr) (op : W32 → W32 → W32 × Half) (absent : Option W32) : Prop := ∃ t, exec o s = .next t ∧
      let lanes (l : Nat) : Option W32 × Half := (if p.getLsbD l then some (lane (getV k f.rs1) l) else absent, 0)
      let r := (pairUp op)^[7] lanes 0
      let q := if p = 0 then ((0 : W32), r.2) else if (f32Unpack (r.1.getD 0)).isNaN then (0x7FC00000, r.2 ||| fNR) else (r.1.getD 0, r.2)
      VectorFrame s t c i q.2 ∧ (coreOf t.dev c).p = k.p ∧ (coreOf t.dev c).lfsr = k.lfsr ∧
      getV (coreOf t.dev c) f.rd = BitVec.ofNat 4096 q.1.toNat ∧
      ∀ j, j ≠ f.rd → getV (coreOf t.dev c) j = getV k j
    Reduces (.vrsum c f) (f32Add .rne) (some 0) ∧ Reduces (.vrmax c f) (f32MaxMin true) none ∧
      Reduces (.vrmin c f) (f32MaxMin false) none

/-- VLD and VST of core-local memory with every lane enabled (p0; R137, R176, R195): the 512 bytes lane 0 first; VST leaves every other
byte of memory, and neither touches another register. -/
def VectorLoadStoreHold : Prop :=
  ∀ (s : State) (c : Nat) (i : Inst) (f : Fields) (a k : Nat), Sound s.dev → Executes s c i → bankFlagged s.dev c 7 = false →
    f.pred = 0 → a < 2 ^ 32 → a % 64 = 0 → getX (coreOf s.dev c) f.rs1 + f.imm.signExtend 64 = BitVec.ofNat 64 a →
    LocalBytes s.dev c a 512 k → Clean s.dev k 512 →
    (∃ t, exec (.vld c f) s = .next t ∧ OnlyCore c s t ∧
      (∃ v, coreOf t.dev c = { coreOf s.dev c with v := v, pc := (coreOf s.dev c).pc + 8 }) ∧
      (∀ j, j < 512 → BitVec.ofNat 8 (elemOf (getV (coreOf t.dev c) f.rd) 8 j) = readByte s.dev.mem (k + j)) ∧
      ∀ q, q ≠ f.rd → getV (coreOf t.dev c) q = getV (coreOf s.dev c) q) ∧
    ∃ t, exec (.vst c f) s = .next t ∧ coreOf t.dev c = { coreOf s.dev c with pc := (coreOf s.dev c).pc + 8 } ∧
      (∀ c', c' ≠ c → coreOf t.dev c' = coreOf s.dev c') ∧
      (∀ j, j < 512 → readByte t.dev.mem (k + j) = BitVec.ofNat 8 (elemOf (getV (coreOf s.dev c) f.rs2) 8 j)) ∧
      ∀ x, ¬ (k ≤ x ∧ x < k + 512) → readByte t.dev.mem x = readByte s.dev.mem x

/-- VLDS and VLDT of core-local memory with every lane enabled (R144, R145): VLDS lays the 8 words at a stride of xs2 one behind the other;
VLDT with w = 8 lays the 16 × 16 tile of column group g transposed in the 64 lowest lanes. No byte of memory changes. -/
def StridedReadsHold : Prop :=
  ∀ (s : State) (c : Nat) (i : Inst) (f : Fields) (b k : Nat), Sound s.dev → Executes s c i → bankFlagged s.dev c 7 = false →
    f.pred = 0 → b < 2 ^ 32 → b % 64 = 0 →
    let stride := (getX (coreOf s.dev c) f.rs2).toNat
    stride ≤ 65535 →
    (getX (coreOf s.dev c) f.rs1 + f.imm.signExtend 64 = BitVec.ofNat 64 b → b + 64 * 7 * stride + 64 ≤ 0x200000 →
      k = spKey c b → (∀ w, w < 8 → Clean s.dev (k + 64 * w * stride) 64) →
      ∃ t, exec (.vlds c f) s = .next t ∧ OnlyCore c s t ∧ (coreOf t.dev c).pc = (coreOf s.dev c).pc + 8 ∧
        ∀ w j, w < 8 → j < 64 →
          BitVec.ofNat 8 (elemOf (getV (coreOf t.dev c) f.rd) 8 (64 * w + j)) = readByte s.dev.mem (k + 64 * w * stride + j)) ∧
    (getX (coreOf s.dev c) f.rs1 = BitVec.ofNat 64 b → b + 64 * 15 * stride + 64 ≤ 0x200000 →
      k = spKey c b → (∀ w, w < 16 → Clean s.dev (k + 64 * w * stride) 64) → f.imm.toNat % 4 = 1 → f.imm.toNat / 4 % 32 < 4 →
      ∃ t, exec (.vldt c f) s = .next t ∧ OnlyCore c s t ∧ (coreOf t.dev c).pc = (coreOf s.dev c).pc + 8 ∧
        ∀ j r, j < 16 → r < 16 →
          BitVec.ofNat 8 (elemOf (getV (coreOf t.dev c) f.rd) 8 (16 * j + r)) =
            readByte s.dev.mem (k + 64 * r * stride + 16 * (f.imm.toNat / 4 % 32) + j))

/-- The vector queue (R176, R181): an instruction whose memory requester is flagged (R168) joins it with the registers of its issue, and
the scalar unit goes on; one behind it joins too; a full queue of 16 holds the scalar unit; VMOVX, FLAGS and END wait until it is empty
(R181, R182); the vector unit takes VBCAST from its front with the xs1 of its issue. When an instruction executes is the model's choice
(log entry 5, DESIGN CHOICE). -/
def VectorQueueHold : Prop :=
  ∀ (s : State) (c : Nat) (i : Inst) (f : Fields), c < 256 → Sound s.dev →
    let k := coreOf s.dev c
    k.status = .running → k.held = false → k.inst = some i →
    let Joins (o : Instr) : Prop :=
      (k.vq.length < 16 → exec o s = .next { s with dev := coreSet s.dev c { k with vq := k.vq ++ [⟨o, k.x, k.pc⟩], pc := k.pc + 8 } }) ∧
      (16 ≤ k.vq.length → exec o s = .next s)
    (bankFlagged s.dev c 7 = true → Joins (.vld c f) ∧ Joins (.vst c f) ∧ Joins (.vdec c f) ∧ Joins (.vadamw c f)) ∧
    (k.vq ≠ [] → Joins (.vld c f) ∧ Joins (.vadd c f) ∧ Joins (.vbcast c f) ∧
      exec (.vmovx c f) s = .next s ∧ exec (.flags c f) s = .next s ∧ exec (.endInst c f) s = .next s) ∧
    ∀ x pc r, k.vq = ⟨.vbcast c f, x, pc⟩ :: r →
      let t := drainOne s.dev c
      (coreOf t c).vq = r ∧ (coreOf t c).pc = k.pc ∧ (coreOf t c).x = k.x ∧
        (∀ l, l < 128 → (getP k f.pred).getLsbD l = true →
          elemOf (getV (coreOf t c) f.rd) 32 l = (if f.rs1 = 0 then 0 else (look 0 x f.rs1.toNat).toNat % 2 ^ 32)) ∧
        ∀ c', c' ≠ c → coreOf t c' = coreOf s.dev c'

/-- Vector loads and stores (R142 to R145): contiguous ones, the strided reads of a scratchpad, and the queue they may wait in. -/
def Obligations.VectorLoadStore : Prop := VectorLoadStoreHold ∧ StridedReadsHold ∧ VectorQueueHold

/-- The block and segment operations with every lane enabled (R190, R191): VDEC of four uncompressed blocks gives every lane the exact
binary32 of its element, a NaR the quiet NaN with NR; VENC writes the four blocks that encoding to nearest gives (R70 to R76, α = 1, β = +0);
VSEG at rate code 0 copies its blocks as a raw segment. VENC and VSEG write no byte of memory outside their blocks, and VDEC none. -/
def Obligations.BlockOperations : Prop :=
  ∀ (s : State) (c : Nat) (i : Inst) (f : Fields) (a k fmt j : Nat), Sound s.dev → Executes s c i → bankFlagged s.dev c 7 = false →
    f.pred = 0 → a < 2 ^ 32 → a % 64 = 0 → getX (coreOf s.dev c) f.rs1 = BitVec.ofNat 64 a → fmt < 3 →
    let q := coreOf s.dev c
    (f.imm.toNat % 32 = fmt → (getX q f.rs2).toNat = j → j % 4 = 0 → LocalBytes s.dev c (a + blockBytes fmt * j) (4 * blockBytes fmt) k →
      Clean s.dev k (4 * blockBytes fmt) → a + blockBytes fmt * (j + 4) < 2 ^ 32 →
      ∃ t fl, exec (.vdec c f) s = .next t ∧ VectorFrame s t c i fl ∧
        ∀ n e, n < 4 → e < 32 →
          let b := (List.range (blockBytes fmt)).map fun y => readByte s.dev.mem (k + blockBytes fmt * n + y)
          lane (getV (coreOf t.dev c) f.rd) (32 * n + e) = valToF32 (blockElem fmt b e) ∧
            (blockElem fmt b e = .nar → fl &&& fNR = fNR)) ∧
    (f.imm.toNat % 64 = fmt → f.rm = 0 → (getX q f.rs2).toNat = j → j % 4 = 0 →
      LocalBytes s.dev c (a + blockBytes fmt * j) (4 * blockBytes fmt) k → Clean s.dev (8 * (k / 8)) (4 * blockBytes fmt + 16) →
      a + blockBytes fmt * (j + 4) < 2 ^ 32 →
      ∃ t, exec (.venc c f) s = .next t ∧ (coreOf t.dev c).pc = q.pc + 8 ∧ (∀ r, getV (coreOf t.dev c) r = getV q r) ∧
        (∀ n y, n < 4 → y < blockBytes fmt → readByte t.dev.mem (k + blockBytes fmt * n + y) =
          (encodeBlock fmt 0 false ((List.range 32).map fun e =>
            ⟨e, f32Mag (f32Add .rne (lane (getV q f.rd) (32 * n + e)) 0).1, .rne⟩)).bytes.getD y 0) ∧
        ∀ x, ¬ (k ≤ x ∧ x < k + 4 * blockBytes fmt) → readByte t.dev.mem x = readByte s.dev.mem x) ∧
    (∀ b m, f.imm.toNat % 2048 / 64 = (if fmt = 2 then 8 else if fmt = 1 then 16 else 0) →
      LocalBytes s.dev c a (16 * blockBytes fmt) k → b < 2 ^ 32 → getX q f.rs2 = BitVec.ofNat 64 b →
      LocalBytes s.dev c b (16 * blockBytes fmt) m → m % 8 = 0 → Clean s.dev k (16 * blockBytes fmt) →
      ∃ t, exec (.vseg c f) s = .next t ∧ getX (coreOf t.dev c) f.rd = 0 ∧ (coreOf t.dev c).pc = q.pc + 8 ∧
        (∀ y, y < 16 * blockBytes fmt → readByte t.dev.mem (m + y) = readByte s.dev.mem (k + y)) ∧
        ∀ x, ¬ (m ≤ x ∧ x < m + 16 * blockBytes fmt) → readByte t.dev.mem x = readByte s.dev.mem x)

/-- VADAMW of a well-formed descriptor with no block output (R192, R193): with the four arrays apart, every element of w, m and v that
lies in an enabled lane (R183), from the run on that a stopped VADAMW had come to (R198), gets the update's results, and no other byte of
memory changes. A descriptor that breaks the table is BAD_OPERAND with no element written. -/
def Obligations.OptimiserUpdate : Prop :=
  ∀ (s : State) (c : Nat) (i : Inst) (f : Fields) (a k : Nat), Sound s.dev → Executes s c i → bankFlagged s.dev c 7 = false →
    f.rm.toNat ≤ 4 → a % 64 = 0 → a < 2 ^ 32 → getX (coreOf s.dev c) f.rs1 = BitVec.ofNat 64 a → LocalBytes s.dev c a 64 k →
    Clean s.dev k 64 →
    let D := parseAdam ((List.range 64).map fun j => readByte s.dev.mem (k + j))
    (adamOk s.dev c D = false → exec (.vadamw c f) s =
      .next { s with dev := taskFail s.dev i.ctx i.task c 0x1015 (BitVec.ofNat 64 a) }) ∧
    (adamOk s.dev c D = true → D.fmt = 3 →
      (∀ p ∈ [D.m, D.v, D.w, D.g], p + 4 * D.count ≤ 0x600000 ∧ Clean s.dev (8 * (spKey c p / 8)) (4 * D.count + 16)) →
      ([D.m, D.v, D.w, D.g].Pairwise fun p q => p + 4 * D.count ≤ q ∨ q + 4 * D.count ≤ p) →
      let get (p : Nat) : W32 := BitVec.ofNat 32 (leNat ((List.range 4).map fun j => readByte s.dev.mem (spKey c p + j)))
      let k := coreOf s.dev c
      let todo (e : Nat) : Prop := 32 * k.adam ≤ e ∧ (getP k f.pred).getLsbD (e % 128) = true
      let r (e : Nat) := adamStep D (get (D.m + 4 * e)) (get (D.v + 4 * e)) (get (D.w + 4 * e)) (get (D.g + 4 * e))
      ∃ t, exec (.vadamw c f) s = .next t ∧ (coreOf t.dev c).pc = k.pc + 8 ∧ (coreOf t.dev c).adam = 0 ∧
        (∀ e j, e < D.count → todo e → j < 4 →
          readByte t.dev.mem (spKey c (D.m + 4 * e) + j) = BitVec.ofNat 8 ((r e).1.toNat / 256 ^ j) ∧
          readByte t.dev.mem (spKey c (D.v + 4 * e) + j) = BitVec.ofNat 8 ((r e).2.1.toNat / 256 ^ j) ∧
          readByte t.dev.mem (spKey c (D.w + 4 * e) + j) = BitVec.ofNat 8 ((r e).2.2.1.toNat / 256 ^ j)) ∧
        ∀ x, (∀ p ∈ [D.m, D.v, D.w], ∀ e, e < D.count → todo e → ¬ (spKey c (p + 4 * e) ≤ x ∧ x < spKey c (p + 4 * e) + 4)) →
          readByte t.dev.mem x = readByte s.dev.mem x)

/-! ### Regions and code tables -/

/-- COMMIT, RELEASE and RFLUSH on a valid region that no channel owns on that side (R148 to R150, R219): the record's new pointers and
STATE bits, the status in xd, the faults REGION_OVERRUN and REGION_UNDERRUN with the record unchanged, and BAD_REGION where the region is
not valid or the number names none. No byte of memory changes. -/
def RegionPointersHold : Prop :=
  ∀ (s : State) (c : Nat) (i : Inst) (f : Fields), Sound s.dev → Executes s c i → s.dev.upset = [] → s.dev.poison = [] →
    let q := coreOf s.dev c
    let num := (getX q f.rs1).toNat % 2 ^ 32
    let Fault (o : Instr) (code : Nat) : Prop :=
      exec o s = .next { s with dev := taskFail s.dev i.ctx i.task c code (BitVec.ofNat 64 (num + c / 8 * 2 ^ 32)) }
    (∀ key r, regionKey c num = some key → r = regionOf s.dev (c / 8) key → r.valid = true →
      let old := if r.taken then r.head else r.old
      let Moves (o : Instr) (r' : Region) (status : Word) : Prop := ∃ t, exec o s = .next t ∧ regionOf t.dev (c / 8) key = r' ∧
        (∀ j, j ≠ key → regionOf t.dev (c / 8) j = regionOf s.dev (c / 8) j) ∧
        (∀ cl j, cl ≠ c / 8 → regionOf t.dev cl j = regionOf s.dev cl j) ∧
        (∀ x, getX (coreOf t.dev c) x = if x = f.rd ∧ x ≠ 0 then status else getX q x) ∧ (coreOf t.dev c).pc = q.pc + 8 ∧
        (∀ c', c' ≠ c → coreOf t.dev c' = coreOf s.dev c') ∧ t.dev.mem = s.dev.mem
      (channelHas s.dev i.ctx (c / 8) num false = false →
        (r.discP = true → Moves (.commit c f) { r with discP := false } 1) ∧
        (r.discP = false → r.count = r.cap → r.opened = false → Fault (.commit c f) 0x1022) ∧
        (r.discP = false → (r.count ≠ r.cap ∨ r.opened = true) →
          Moves (.commit c f) { r with tail := (r.tail + 1) % r.cap, count := r.count + 1, opened := false } 0)) ∧
      (channelHas s.dev i.ctx (c / 8) num true = false →
        (r.discC = true → Moves (.release c f) { r with discC := false } 1) ∧
        (r.discC = false → r.taken = false → r.count = 0 → Fault (.release c f) 0x1023) ∧
        (r.discC = false → (r.taken = true ∨ r.count ≠ 0) →
          Moves (.release c f) { r with head := (r.head + 1) % r.cap, count := r.count - 1, taken := false } 0)) ∧
      (r.opened = true → Moves (.rflush c f)
        { r with head := r.tail, count := 0, taken := false, discC := r.discC || r.taken, old := old, opened := false, discP := true,
                 trunc := true } 1) ∧
      (r.opened = false → Moves (.rflush c f)
        { r with head := r.tail, count := 0, taken := false, discC := r.discC || r.taken, old := old } 0)) ∧
    ((regionKey c num = none ∨ ∃ key, regionKey c num = some key ∧ (regionOf s.dev (c / 8) key).valid = false) →
      Fault (.commit c f) 0x1021 ∧ Fault (.release c f) 0x1021 ∧ Fault (.rflush c f) 0x1021)

/-- RSET and RGET with a record in core-local memory that meets no memory error (R147): RSET makes BASE, ITEM and CAP the region's, VALID
and empty, or faults with BAD_REGION and leaves the old record; RGET lays the record out in its 16 bytes and changes no other byte. -/
def RegionRecordsHold : Prop :=
  ∀ (s : State) (c : Nat) (i : Inst) (f : Fields) (a k key : Nat), Sound s.dev → Executes s c i → bankFlagged s.dev c 8 = false →
    a < 2 ^ 32 → getX (coreOf s.dev c) f.rs2 = BitVec.ofNat 64 a → LocalBytes s.dev c a 16 k → s.dev.upset = [] → s.dev.poison = [] →
    let num := (getX (coreOf s.dev c) f.rs1).toNat % 2 ^ 32
    regionKey c num = some key →
    let b (off n : Nat) : Nat := leNat ((List.range n).map fun j => readByte s.dev.mem (k + off + j))
    let fits : Prop := b 4 3 % 4 = 0 ∧ 4 ≤ b 4 3 ∧ b 4 3 ≤ 1048576 ∧ 1 ≤ b 8 2 ∧ b 0 4 % 64 = 0 ∧
      b 10 2 < b 8 2 ∧ b 12 2 < b 8 2 ∧ b 14 2 ≤ b 8 2 ∧ memOf (b 0 4) = some (num / 256 % 4) ∧ b 0 4 + b 8 2 * b 4 3 ≤ memEnd s.dev c (num / 256 % 4)
    (fits → ∃ t, exec (.rset c f) s = .next t ∧ (coreOf t.dev c).pc = (coreOf s.dev c).pc + 8 ∧ t.dev.mem = s.dev.mem ∧
      regionOf t.dev (c / 8) key = ⟨b 0 4, b 4 3, true, false, false, false, false, false, b 8 2, 0, 0, 0, 0⟩ ∧
      ∀ j, j ≠ key → regionOf t.dev (c / 8) j = regionOf s.dev (c / 8) j) ∧
    (¬ fits → exec (.rset c f) s =
      .next { s with dev := taskFail s.dev i.ctx i.task c 0x1021 (BitVec.ofNat 64 (num + c / 8 * 2 ^ 32)) }) ∧
    ∃ t, exec (.rget c f) s = .next t ∧ (coreOf t.dev c).pc = (coreOf s.dev c).pc + 8 ∧
      (∀ r, getX (coreOf t.dev c) r = getX (coreOf s.dev c) r) ∧
      (let r := regionOf s.dev (c / 8) key
       let out (off n : Nat) : Nat := leNat ((List.range n).map fun j => readByte t.dev.mem (k + off + j))
       out 0 4 = r.base % 2 ^ 32 ∧ out 4 3 = r.item % 2 ^ 24 ∧ out 8 2 = r.cap % 2 ^ 16 ∧ out 10 2 = r.head % 2 ^ 16 ∧
         out 12 2 = r.tail % 2 ^ 16 ∧ out 14 2 = r.count % 2 ^ 16 ∧
         out 7 1 = r.valid.toNat + 2 * r.opened.toNat + 4 * r.taken.toNat + 8 * r.discP.toNat + 16 * r.discC.toNat + 32 * r.trunc.toNat) ∧
      ∀ x, ¬ (k ≤ x ∧ x < k + 16) → readByte t.dev.mem x = readByte s.dev.mem x

/-- Regions (R147 to R150, R219): their pointers, and the records that set and show them. -/
def Obligations.RegionOperations : Prop := RegionPointersHold ∧ RegionRecordsHold

/-- A record of R118 that R119 accepts: KIND 0 or 1, lengths of at most 12, zero bytes 2 to 7 for KIND 1, two coded symbols, and lengths that
form a complete prefix code. `len` is the length of each symbol. -/
def RecordValid (b : List Byte) (len : List Nat) : Prop :=
  (b.getD 8 0 = 0 ∧ len = (List.range 16).map (fun y => ((b.getD (y / 2) 0).toNat / 16 ^ (y % 2)) % 16) ∨
    b.getD 8 0 = 1 ∧ len = (List.range 4).map (fun y => ((b.getD (y / 2) 0).toNat / 16 ^ (y % 2)) % 16) ∧
      (∀ j, 2 ≤ j → j < 8 → b.getD j 0 = 0)) ∧
    (∀ l ∈ len, l ≤ 12) ∧ 2 ≤ (len.filter (fun l => l ≠ 0)).length ∧
    ((len.filter (fun l => l ≠ 0)).map (fun l => 2 ^ (12 - l))).sum = 4096

/-- Code table slots (R121, R432): TALLOC takes the lowest slot that is empty and not reserved and reserves it, or answers 0x0303 with bit 63
set; TFREE empties a slot and clears its reservation, and faults with BAD_TABLE above slot 63; a TLOAD that names another slot answers 0x0201;
one of a valid record begins the load, which TLOAD_RETIRE completes, and one of an invalid record answers 0x0201 and leaves the slot
(R119). -/
def Obligations.CodeTableSlots : Prop :=
  ∀ (s : State) (c : Nat) (i : Inst) (f : Fields), Sound s.dev → Executes s c i →
    let q := coreOf s.dev c
    let x := ctxOf s.dev i.ctx
    let empty (n : Nat) : Prop := look none x.tables n = none ∧ look false x.reserved n = false
    let slot := (getX q f.rs1).toNat
    let Answers (o : Instr) (v : Word) : Prop := ∃ t, exec o s = .next t ∧ WroteX s t c f.rd v (q.pc + 8)
    (∀ n, n < 64 → empty n → (∀ m, m < n → ¬ empty m) → ∃ t, exec (.talloc c f) s = .next t ∧
      (∀ r, getX (coreOf t.dev c) r = if r = f.rd ∧ r ≠ 0 then BitVec.ofNat 64 n else getX q r) ∧ (coreOf t.dev c).pc = q.pc + 8 ∧
      ctxOf t.dev i.ctx = { x with reserved := put false x.reserved n true } ∧ t.dev.mem = s.dev.mem) ∧
    ((∀ n, n < 64 → ¬ empty n) → Answers (.talloc c f) 0x8000000000000303) ∧
    (slot < 64 → ∃ t, exec (.tfree c f) s = .next t ∧ (coreOf t.dev c).pc = q.pc + 8 ∧
      ctxOf t.dev i.ctx = { x with tables := put none x.tables slot none, reserved := put false x.reserved slot false }) ∧
    (64 ≤ slot → exec (.tfree c f) s = .next { s with dev := taskFail s.dev i.ctx i.task c 0x1003 q.pc }) ∧
    (bankFlagged s.dev c 8 = false → 64 ≤ slot → Answers (.tload c f) 0x0201) ∧
    (bankFlagged s.dev c 8 = false → slot < 64 → ∀ a k, a < 2 ^ 32 → getX q f.rs2 = BitVec.ofNat 64 a → LocalBytes s.dev c a 16 k →
      Clean s.dev k 16 →
      let b := (List.range 16).map fun j => readByte s.dev.mem (k + j)
      (∀ len, RecordValid b len → ∃ t t', exec (.tload c f) s = .next t ∧
        coreOf t.dev c = { q with status := .loading, tload := some (slot, ⟨(b.getD 8 0).toNat, len⟩, f.rd) } ∧
        ctxOf t.dev i.ctx = x ∧
        exec (.tloadRetire c) t = .next t' ∧ look none (ctxOf t'.dev i.ctx).tables slot = some ⟨(b.getD 8 0).toNat, len⟩ ∧
        (coreOf t'.dev c).status = .running ∧ (coreOf t'.dev c).tload = none ∧ (coreOf t'.dev c).pc = q.pc + 8 ∧
        ∀ r, getX (coreOf t'.dev c) r = if r = f.rd then 0 else getX q r) ∧
      ((∀ len, ¬ RecordValid b len) → Answers (.tload c f) 0x0201))

/-! ### Tallies -/

/-- A tally on which operations of context `x` act at once: in use, the context neither frozen nor being harvested (R229, R241, R337). -/
structure TallyActs (d : Dev) (key x : Nat) : Prop where
  holder : nodeCtx d key = some x
  alive : (ctxOf d x).state ≠ .frozen
  unsaved : (ctxOf d x).harvesting = false
  inuse : (tallyOf d key).inuse = true

/-- An instruction of core `c` names tally `key` of its own cluster, which it can use (R229). -/
structure NamesOwn (s : State) (c : Nat) (i : Inst) (f : Fields) (key : Nat) : Prop where
  small : (getX (coreOf s.dev c) f.rs1).toNat < 65536
  names : (getX (coreOf s.dev c) f.rs1).toNat % 32768 = key
  own : key / 1024 = c / 8
  held : (maskOf s.dev i.ctx).testBit (key / 1024) = true
  acts : TallyActs s.dev key i.ctx

/-- SIGNAL, DEC and WAIT on a counter-mode tally of the core's own cluster (R226, R232, R233): the sum or difference at once; the waiters
that a SIGNAL frees are the longest front of the line that the count covers, each of them a core that goes on; an underflow or overflow
faults the task and leaves the tally; a WAIT for 0, or one first in line whose count is there, proceeds, and any other joins the end of the
line and stops the core at its instruction. -/
def Obligations.CounterTallies : Prop :=
  ∀ (s : State) (c : Nat) (i : Inst) (f : Fields) (key : Nat), Sound s.dev → Executes s c i → f.imm.toNat / 2 ^ 24 = 0 →
    NamesOwn s c i f key → (tallyOf s.dev key).barrier = false →
    let q := coreOf s.dev c
    let y := tallyOf s.dev key
    let n := f.imm.toNat
    let Fails (o : Instr) (code : Nat) : Prop := ∃ t, exec o s = .next t ∧ tallyOf t.dev key = y ∧
      ∃ d, t = { s with dev := d } ∧
        (∀ z, taskOf s.dev i.ctx i.task = some z → z.phase = .running → z.fault = none → c ∈ z.started →
          (coreOf d c).inst = none ∧ ∃ z', taskOf d i.ctx i.task = some z' ∧ z'.fault = some (code, c, BitVec.ofNat 64 key))
    (y.count.toNat + n ≤ 0xFFFFFF → (∀ w ∈ y.line, ∃ c', c' ≠ c ∧ w.1 = .core c') →
      ∃ t freed rest, exec (.signal c f) s = .next t ∧ (coreOf t.dev c).pc = q.pc + 8 ∧ y.line = freed ++ rest ∧
        (∀ w ∈ freed, ∀ c', w.1 = .core c' → (coreOf t.dev c').status = .running ∧ (coreOf t.dev c').gated = false) ∧
        (freed.map fun w => w.2.1.toNat).sum ≤ y.count.toNat + n ∧
        (tallyOf t.dev key).count.toNat = y.count.toNat + n - (freed.map fun w => w.2.1.toNat).sum ∧
        tallyOf t.dev key = { y with line := rest, count := (tallyOf t.dev key).count } ∧
        (∀ w r, rest = w :: r → (tallyOf t.dev key).count.toNat < w.2.1.toNat) ∧
        (∀ j, j ≠ key → tallyOf t.dev j = tallyOf s.dev j) ∧ t.dev.mem = s.dev.mem) ∧
    (0xFFFFFF < y.count.toNat + n → y.line = [] → Fails (.signal c f) 0x1032) ∧
    (n ≤ y.count.toNat → ∃ t, exec (.dec c f) s = .next t ∧ (coreOf t.dev c).pc = q.pc + 8 ∧
      tallyOf t.dev key = { y with count := y.count - BitVec.ofNat 24 n } ∧ ∀ j, j ≠ key → tallyOf t.dev j = tallyOf s.dev j) ∧
    (y.count.toNat < n → y.line = [] → Fails (.dec c f) 0x1031) ∧
    (n = 0 ∨ (y.line = [] ∧ n ≤ y.count.toNat) → ∃ t, exec (.wait c f) s = .next t ∧ (coreOf t.dev c).pc = q.pc + 8 ∧
      (coreOf t.dev c).status = .running ∧ tallyOf t.dev key = { y with count := y.count - BitVec.ofNat 24 n }) ∧
    (n ≠ 0 → (y.line ≠ [] ∨ y.count.toNat < n) → ∃ t, exec (.wait c f) s = .next t ∧
      coreOf t.dev c = { q with status := .waiting } ∧
      tallyOf t.dev key = { y with line := y.line ++ [(.core c, BitVec.ofNat 24 n, none)] } ∧
      ∀ j, j ≠ key → tallyOf t.dev j = tallyOf s.dev j)

/-- ARRIVE and WAIT on a barrier-mode tally of the core's own cluster (R227): an ARRIVE latches the tally's GEN and counts one; the last one of
a tally without a parent releases it: GEN one up, COUNT 0; the last one of a tally with a parent sets UP and sends one arrival to the parent.
A WAIT proceeds and clears the latch when GEN differs from its target, which the latch gives when it names the tally, and else joins the line
with that target. -/
def Obligations.BarrierTallies : Prop :=
  ∀ (s : State) (c : Nat) (i : Inst) (f : Fields) (key : Nat), Sound s.dev → Executes s c i → f.imm.toNat / 2 ^ 24 = 0 →
    NamesOwn s c i f key → (tallyOf s.dev key).barrier = true →
    let q := coreOf s.dev c
    let y := tallyOf s.dev key
    let latched (t : State) : Prop := (coreOf t.dev c).latch = some (key, y.gen) ∧ (coreOf t.dev c).pc = q.pc + 8 ∧ t.dev.mem = s.dev.mem ∧
      ∀ j, j ≠ key → tallyOf t.dev j = tallyOf s.dev j
    let target := match q.latch with | some (k, g) => if k = key then g else y.gen | none => y.gen
    (y.up = false → y.count.toNat + 1 < y.p.toNat → ∃ t, exec (.arrive c f) s = .next t ∧ latched t ∧
      tallyOf t.dev key = { y with count := y.count + 1 }) ∧
    (y.up = false → y.p.toNat ≤ y.count.toNat + 1 → y.count.toNat + 1 < 2 ^ 24 → refNone y.parent = true → y.paths = [] → y.line = [] →
      ∃ t, exec (.arrive c f) s = .next t ∧ latched t ∧ tallyOf t.dev key = { y with gen := y.gen + 1, count := 0, up := false }) ∧
    (y.up = false → y.p.toNat ≤ y.count.toNat + 1 → y.count.toNat + 1 < 2 ^ 24 → refNone y.parent = false → refLevel y.parent ≠ 4 →
      ∃ t, exec (.arrive c f) s = .next t ∧ latched t ∧ tallyOf t.dev key = { y with count := y.count + 1, up := true } ∧
        ∃ m, t.dev.inflight = s.dev.inflight ++ [m] ∧ m.node = y.parent ∧ m.op = .arrive) ∧
    (y.gen ≠ target → ∃ t, exec (.wait c f) s = .next t ∧ coreOf t.dev c = { q with latch := none, pc := q.pc + 8 } ∧
      ∀ j, tallyOf t.dev j = tallyOf s.dev j) ∧
    (y.gen = target → ∃ t, exec (.wait c f) s = .next t ∧ coreOf t.dev c = { q with status := .waiting } ∧
      tallyOf t.dev key = { y with line := y.line ++ [(.core c, BitVec.ofNat 24 f.imm.toNat, some target)] } ∧
      ∀ j, j ≠ key → tallyOf t.dev j = tallyOf s.dev j)

/-- TSETC, TSETB and TDROP (R225, R235, R237, R239): on a node that the operation may act on they set the record, GEN unchanged, and answer 0;
a reference of no node, a tally outside the clusters, a node of another package, one that is busy, or for TDROP one that is free or held by
another context answers 0x0201 and changes nothing; a full quota, or a tree node of another context, answers 0x0303. -/
def Obligations.TallyControl : Prop :=
  ∀ (s : State) (c : Nat) (i : Inst) (f : Fields) (key : Nat), Sound s.dev → Executes s c i →
    let q := coreOf s.dev c
    let r := getX q f.rs1
    let y := tallyOf s.dev key
    let sel := f.imm.toNat / 2 ^ 24
    let reaches : Prop := nodeKey r = some key ∧ (key < 32768 → (maskOf s.dev i.ctx).testBit (key / 1024) = true) ∧
      (refLevel r = 4 → refPackage r = ownIndex s.dev)
    let quiet : Prop := y.line = [] ∧ y.up = false ∧ (y.barrier = true → y.count = 0)
    let room : Prop := cobj s.dev i.ctx 5 = 0xFFFFFFFF ∨ talliesInUse s.dev i.ctx + 1 ≤ cobj s.dev i.ctx 5
    let Sets (o : Instr) (y' : Tally) : Prop := ∃ t, exec o s = .next t ∧ tallyOf t.dev key = y' ∧
      (∀ j, j ≠ key → tallyOf t.dev j = tallyOf s.dev j) ∧ t.dev.mem = s.dev.mem ∧ (coreOf t.dev c).pc = q.pc + 8 ∧
      ∀ x, getX (coreOf t.dev c) x = if x = f.rd ∧ x ≠ 0 then 0 else getX q x
    let Answers (o : Instr) (v : Word) : Prop := ∃ t, exec o s = .next t ∧ WroteX s t c f.rd v (q.pc + 8)
    (sel = 1 → reaches → refLevel r = 1 → (y.inuse = true → quiet) → (y.inuse = false → room) → y.line = [] →
      Sets (.tsetc c f) { y with inuse := true, barrier := false, up := false, count := BitVec.ofNat 24 f.imm.toNat, p := 0, parent := 0,
                                 owner := i.ctx, paths := [] }) ∧
    (sel = 2 → reaches → parentOk key r (getX q f.rs2) = true → 1 ≤ f.imm.toNat % 65536 → (refLevel r = 1 ∨ f.imm.toNat % 65536 ≤ 16) →
      (y.inuse = true → quiet ∧ y.owner = i.ctx) → (y.inuse = false → room) →
      Sets (.tsetb c f) { y with inuse := true, barrier := true, up := false, count := 0, p := BitVec.ofNat 16 f.imm.toNat,
                                 parent := getX q f.rs2, owner := i.ctx, paths := [] }) ∧
    (sel = 3 → reaches → y.inuse = true → y.owner = i.ctx → quiet →
      Sets (.tdrop c f) ⟨false, false, false, 0, 0, y.gen, 0, 0, [], []⟩) ∧
    (sel = 3 → nodeKey r = some key → y.inuse = false → Answers (.tdrop c f) 0x0201) ∧
    (sel = 3 → reaches → y.inuse = true → (y.up = true ∨ (y.barrier = true ∧ y.count ≠ 0)) → Answers (.tdrop c f) 0x0201) ∧
    (nodeKey r = none → (sel = 1 → Answers (.tsetc c f) 0x0201) ∧ (sel = 2 → Answers (.tsetb c f) 0x0201) ∧
      (sel = 3 → Answers (.tdrop c f) 0x0201)) ∧
    (sel = 1 → reaches → refLevel r ≠ 1 → Answers (.tsetc c f) 0x0201) ∧
    (sel = 2 → reaches → (f.imm.toNat % 65536 = 0 ∨ parentOk key r (getX q f.rs2) = false) → Answers (.tsetb c f) 0x0201) ∧
    (sel = 1 → reaches → refLevel r = 1 → y.inuse = false → ¬ room → Answers (.tsetc c f) 0x0303) ∧
    (sel = 2 → reaches → parentOk key r (getX q f.rs2) = true → 1 ≤ f.imm.toNat % 65536 → f.imm.toNat % 65536 ≤ 16 → y.inuse = true →
      y.owner ≠ i.ctx → Answers (.tsetb c f) 0x0303)

/-- Messages between tally nodes, in a package that is awake (R227, R228, R234, R236, R240): the oldest one of its source takes effect at its
node; a signal adds its count; a child's arrival adds one and its path is kept; a parent's release lifts GEN, clears UP and COUNT. A signal
to a tally that is free is discarded, and a cluster tally's is counted; an instruction's faults its task with BAD_ADDRESS (R229).
A waiting core is clock-gated and stays where it is (R233). -/
def Obligations.TallyMessages : Prop :=
  ∀ (s : State) (m : TallyMsg) (r : List TallyMsg) (key x : Nat), Sound s.dev → sleep s.dev = 0 → nodeKey m.node = some key →
    s.dev.inflight = m :: r →
    let y := tallyOf s.dev key
    let Reaches (o : Instr) (y' : Tally) : Prop := ∃ t, exec o s = .next t ∧ tallyOf t.dev key = y' ∧ t.dev.inflight = r ∧
      t.dev.mem = s.dev.mem ∧ (∀ j, j ≠ key → tallyOf t.dev j = tallyOf s.dev j) ∧ ∀ c, coreOf t.dev c = coreOf s.dev c
    (TallyActs s.dev key x → y.line = [] → y.barrier = false →
      (∀ n ch, m.op = .signal n → m.charge = .channel x ch → y.count.toNat + n.toNat ≤ 0xFFFFFF →
        Reaches (.signalRemote m) { y with count := y.count + n }) ∧
      (∀ n tk c pc, m.op = .decr n → m.charge = .instruction x tk c pc → n.toNat ≤ y.count.toNat →
        Reaches (.signalRemote m) { y with count := y.count - n })) ∧
    (TallyActs s.dev key x → y.barrier = true → m.op = .arrive → m.charge = .node → m.path ≠ 0 → y.up = false →
      y.count.toNat + 1 < y.p.toNat →
      Reaches (.tallyRemoteArrival m) { y with count := y.count + 1, paths := y.paths ++ [m.path] }) ∧
    (TallyActs s.dev key x → y.barrier = true → m.op = .release → m.charge = .node → y.up = true → y.line = [] → y.paths = [] →
      Reaches (.tallyRemoteRelease m) { y with gen := y.gen + 1, count := 0, up := false }) ∧
    (nodeCtx s.dev key = some x → (ctxOf s.dev x).state ≠ .frozen → (ctxOf s.dev x).harvesting = false → y.inuse = false → key < 32768 →
      ∀ n ch, m.op = .signal n → m.charge = .channel x ch → ∃ t, exec (.signalRemote m) s = .next t ∧ t.dev.inflight = r ∧
        (∀ j, tallyOf t.dev j = tallyOf s.dev j) ∧ t.dev.mem = s.dev.mem ∧ cobj t.dev x 13 = min (cobj s.dev x 13 + 1) (2 ^ 32 - 1)) ∧
    (nodeCtx s.dev key = some x → (ctxOf s.dev x).state ≠ .frozen → (ctxOf s.dev x).harvesting = false → y.inuse = false → key < 32768 →
      ∀ n tk c pc, m.op = .signal n → m.charge = .instruction x tk c pc →
        let d := cobjSet { s.dev with inflight := r } x 13 (min (cobj s.dev x 13 + 1) (2 ^ 32 - 1))
        exec (.signalRemote m) s = .next { s with dev := taskFail d x tk c 0x1002 pc }) ∧
    ∀ c, c < 256 → (coreOf s.dev c).status = .waiting → ∃ t, exec (.waitClockGate c) s = .next t ∧
      coreOf t.dev c = { coreOf s.dev c with gated := true } ∧ t.dev.tallies = s.dev.tallies

/-! ### Matrix commands and DMA -/

/-- MISSUE of a descriptor in core-local memory that meets no memory error (R85, R88 to R90): a full queue holds the core at the instruction;
the first check that fails faults the task with the descriptor's address, before anything else; a command that the batcher does not take
enters the queue behind the others, with its converter control block, and the core goes on. No byte of memory changes. -/
def Obligations.MatrixIssue : Prop :=
  ∀ (s : State) (c : Nat) (i : Inst) (f : Fields) (a k : Nat), Sound s.dev → Executes s c i → bankFlagged s.dev c 8 = false →
    a < 2 ^ 32 → a % 64 = 0 → getX (coreOf s.dev c) f.rs1 = BitVec.ofNat 64 a → LocalBytes s.dev c a 64 k →
    s.dev.upset = [] → s.dev.poison = [] →
    let q := coreOf s.dev c
    let b := (List.range 64).map fun j => readByte s.dev.mem (k + j)
    let m := parseMat b
    let ccb := parseCcb (match localKey s.dev c m.ccbAddr 32 with
      | some y => (List.range 32).map fun j => readByte s.dev.mem (y + j)
      | none => zeros 32)
    let op := (b.getD 0 0).toNat
    let e := matCheck s.dev c m ccb ((b.getD 10 0).toNat % 16)
    let Fails (code : Nat) : Prop := exec (.missue c f) s = .next { s with dev := taskFail s.dev i.ctx i.task c code (BitVec.ofNat 64 a) }
    (8 ≤ q.queue.length → exec (.missue c f) s = .next s) ∧
    (q.queue.length < 8 →
      (e ≠ 0 → Fails e) ∧
      (op ≠ 1 → op ≠ 2 → e = 0x1011) ∧
      (op = 1 → m.aRate ≤ 4 → m.bRate ≤ 4 → (m.aFmt ≠ 3 ∨ m.aRate = 0) → (m.bFmt ≠ 3 ∨ m.bRate = 0) → (b.getD 10 0).toNat % 16 = 0 → e = 0x1013) ∧
      (op = 1 ∨ op = 2 → 4 < m.aRate ∨ 4 < m.bRate → e = 0x1012) ∧
      (e = 0 → batches s.dev c m = false → ∃ t, exec (.missue c f) s = .next t ∧ OnlyCore c s t ∧
        coreOf t.dev c = { q with
          pc := q.pc + 8, nextCmd := q.nextCmd + 1,
          queue := q.queue ++ [⟨q.nextCmd, m, [⟨m.m, m.aAddr, m.outAddr, m.outCirc, none, [], 0, BitVec.ofNat 64 a, m.accIn, m.accAddr, c,
            i.ctx, i.task, i.ftz, i.seed, m.done, ccb, false, [], false⟩], false, i.ctx, []⟩] }))

/-- No context is on its way to a harvest. -/
def NoHarvest (d : Dev) : Prop := ∀ x, (ctxOf d x).state ≠ .preempting ∧ (ctxOf d x).state ≠ .reclaiming

/-- The steps of a matrix command (R84, R90, R99, R100): a command at the front of the queue starts on the idle engines of its mask; an engine
loads the tile it takes next into a free shadow buffer, and swaps its buffers when its cursor stands in that tile's pass; a finished
command leaves its queue, having signalled its DONE_TALLY; a group whose time is out enters its lead's queue as one command of all its rows, or
waits there for an entry; its results are copied out. -/
def Obligations.MatrixEngineSteps : Prop :=
  ∀ (s : State) (c : Nat), Sound s.dev → c < 256 → NoHarvest s.dev →
    let k := coreOf s.dev c
    (∀ q r, k.queue = q :: r → q.started = false → engineMay s.dev c q = true → (∀ g ∈ enginesOf q.desc, (engineOf k g).cmd = none) →
      ∃ t, exec (.matrixCommandStart c 0) s = .next t ∧ OnlyCore c s t ∧
        (coreOf t.dev c).queue = k.queue.map (fun e => if e.id = q.id then { e with started := true } else e) ∧
        ∀ g ∈ enginesOf q.desc, passesOf q.desc g ≠ 0 →
          (engineOf (coreOf t.dev c) g).cmd = some q.id ∧ (engineOf (coreOf t.dev c) g).pass = 0 ∧ (engineOf (coreOf t.dev c) g).row = 0) ∧
    (∀ g q p, g < 4 → (engineOf k g).shadow = none → nextTile k g = some (q.id, p) → cmdById k q.id = some q → engineMay s.dev c q = true →
      bankFlagged s.dev c 1 = false →
      ∃ t y, exec (.tileLoadDone c g) s = .next t ∧ (engineOf (coreOf t.dev c) g).shadow = some y ∧ y.cmd = q.id ∧ y.pass = p ∧
        y.loaded = true ∧ (engineOf (coreOf t.dev c) g).active = (engineOf k g).active ∧ (engineOf (coreOf t.dev c) g).cmd = (engineOf k g).cmd) ∧
    (∀ g y q, g < 4 → (engineOf k g).shadow = some y → y.loaded = true → (engineOf k g).cmd = some y.cmd → (engineOf k g).pass = y.pass →
      cmdById k y.cmd = some q → engineMay s.dev c q = true → ∃ t, exec (.bufferSwap c g) s = .next t ∧ OnlyCore c s t ∧
        engineOf (coreOf t.dev c) g = { engineOf k g with active := some y, shadow := none }) ∧
    (∀ q r p, k.queue = q :: r → q.started = true → finishedBy k q = true → q.parts = [p] → p.staged = none → p.failed = false →
      (ctxOf s.dev q.ctx).state ≠ .frozen → (clusterOf s.dev (c / 8)).groups = [] →
      (p.done = 0xFFFF → ∃ t, exec (.matrixCommandComplete c 0) s = .next t ∧ (coreOf t.dev c).queue = r ∧
        (∀ j, tallyOf t.dev j = tallyOf s.dev j) ∧ t.dev.mem = s.dev.mem) ∧
      (∀ key, p.core = c → p.done < 1024 → key = 1024 * (c / 8) + p.done → TallyActs s.dev key p.ctx → (tallyOf s.dev key).barrier = false →
        (tallyOf s.dev key).line = [] → (tallyOf s.dev key).count.toNat < 0xFFFFFF →
        ∃ t, exec (.matrixCommandComplete c 0) s = .next t ∧ (coreOf t.dev c).queue = r ∧
          tallyOf t.dev key = { tallyOf s.dev key with count := (tallyOf s.dev key).count + 1 })) ∧
    (∀ cl n g, cl < 32 → (clusterOf s.dev cl).groups[n]? = some g → (ctxOf s.dev (groupCtx g)).state ≠ .frozen →
      ((coreOf s.dev g.lead).queue.length < 8 → ∃ t, exec (.batchTimeout cl n) s = .next t ∧
        (clusterOf t.dev cl).groups = (clusterOf s.dev cl).groups.eraseIdx n ∧
        (coreOf t.dev g.lead).queue = (coreOf s.dev g.lead).queue ++
          [⟨(coreOf s.dev g.lead).nextCmd, { g.desc with m := (g.parts.map fun p => p.rows).sum }, g.parts, false, groupCtx g, []⟩]) ∧
      (8 ≤ (coreOf s.dev g.lead).queue.length → ∃ t, exec (.batchTimeout cl n) s = .next t ∧
        (clusterOf t.dev cl).groups = (clusterOf s.dev cl).groups.set n { g with due := true } ∧ ∀ j, coreOf t.dev j = coreOf s.dev j)) ∧
    (∀ q r p off bs y st, k.queue = q :: r → q.started = true → finishedBy k q = true → q.parts = [p] → p.staged = some st → p.failed = false →
      p.outCirc = false → p.done = 0xFFFF → p.results = [(off, bs)] → localKey s.dev p.core (p.outAddr + off) bs.length = some y →
      s.dev.upset = [] → s.dev.poison = [] → (∀ e ∈ r, e.id ≠ q.id) → (ctxOf s.dev q.ctx).state ≠ .frozen →
      ∃ t, exec (.batchCopyOut c 0) s = .next t ∧ (coreOf t.dev c).queue = { q with parts := [], fold := [] } :: r ∧
        (∀ j, j < bs.length → readByte t.dev.mem (y + j) = bs.getD j 0) ∧
        ∀ a, ¬ (y ≤ a ∧ a < y + bs.length) → readByte t.dev.mem a = readByte s.dev.mem a)

/-- One row of an F8 command of one K-block with raw A24 output (R51, R56 to R61, R68, R86): each column's output is the A24 code, in the upper
three bytes of its container, of the rounded sum of the rounded products of the row's elements and the tile's; no other byte of memory changes,
and the engine goes on to the next row or is done with the command. -/
def Obligations.MatrixRowResult : Prop :=
  ∀ (s : State) (c g : Nat) (q : MatCmd) (p : Part) (y : Tile) (ka ko : Nat), Sound s.dev → c < 256 → g < 4 →
    let m := q.desc
    let e := engineOf (coreOf s.dev c) g
    e.cmd = some q.id → cmdById (coreOf s.dev c) q.id = some q → e.pass = 0 → e.active = some y → y.cmd = q.id → y.pass = 0 →
    q.parts = [p] → p.rows = m.m → p.staged = none → p.failed = false → p.accIn = false → m.aCirc = false → m.outCirc = false →
    m.aFmt = 3 → m.bFmt = 3 → 1 ≤ m.k → m.k ≤ 32 → 1 ≤ m.n → m.n ≤ 64 → m.mask = 2 ^ g → e.row < m.m → p.ccb.outFmt = 5 →
    engineMay s.dev c q = true → bankFlagged s.dev c 2 = false → bankFlagged s.dev c 3 = false → bankFlagged s.dev c 4 = false →
    s.dev.upset = [] → s.dev.poison = [] →
    localKey s.dev c (p.aAddr + e.row * m.k) m.k = some ka → localKey s.dev c (p.outAddr + e.row * (4 * m.n)) (4 * m.n) = some ko →
    let prod (i j : Nat) : BitVec 24 :=
      ((((f8Val (readByte s.dev.mem (ka + i))).mul (f32Val m.aScale)).mul (look (.num 0 0) y.elems (64 * i + j))).toA24 p.ftz).1
    let acc (j : Nat) : BitVec 24 :=
      (((Val.num 0 0).add ((List.range m.k).foldl (fun v i => v.add (a24Val (prod i j))) (.num 0 0))).toA24 p.ftz).1
    ∃ t, exec (.matrixRow c g) s = .next t ∧
      (∀ j b, j < m.n → b < 4 → readByte t.dev.mem (ko + 4 * j + b) = BitVec.ofNat 8 ((acc j).toNat * 256 / 256 ^ b)) ∧
      (∀ a, ¬ (ko ≤ a ∧ a < ko + 4 * m.n) → readByte t.dev.mem a = readByte s.dev.mem a) ∧
      (e.row + 1 < m.m → (engineOf (coreOf t.dev c) g).row = e.row + 1 ∧ (engineOf (coreOf t.dev c) g).cmd = some q.id) ∧
      (e.row + 1 = m.m → (engineOf (coreOf t.dev c) g).cmd = none)

/-- Runs commands one after the other. -/
def runAll : List Instr → State → Host.Outcome State Machine.Fault Refusal
  | [], s => .next s
  | i :: r, s =>
    match exec i s with
    | .next t => runAll r t
    | .fault e => .fault e
    | .refused e => .refused e

/-- MATMUL and EXACT_FILL run a whole queued command, and are nothing but its steps: what each does to a command that no batcher staged, some
sequence of starts, tile loads, buffer swaps, rows and a completion on that core does as well. A command at the front of the queue with plain
operands and no bias, whose engines are idle and which meets no memory error, runs to its end: it has left the queue, its engines are idle
again and its DONE_TALLY has received SIGNAL 1 (R90, R91, R96). -/
def Obligations.WholeMatrixCommands : Prop :=
  ∀ (s : State) (c n : Nat) (q : MatCmd), c < 256 → (coreOf s.dev c).queue[n]? = some q →
    (∀ e ∈ (coreOf s.dev c).queue, ∀ p ∈ e.parts, p.staged = none) →
    let isStep (x : Instr) : Prop := (∃ j, x = .matrixCommandStart c j) ∨ (∃ g, x = .tileLoadDone c g) ∨ (∃ g, x = .bufferSwap c g) ∨
      (∃ g, x = .matrixRow c g) ∨ ∃ j, x = .matrixCommandComplete c j
    let Whole (o : Instr) : Prop := ∃ (l : List Instr) (t : State), l ≠ [] ∧ (∀ x ∈ l, isStep x) ∧ exec o s = .next t ∧ runAll l s = .next t
    let Ends (o : Instr) : Prop := ∀ (r : List MatCmd) (p : Part) (x : CState), Sound s.dev → NoHarvest s.dev → n = 0 →
      (coreOf s.dev c).queue = q :: r → (∀ e ∈ r, e.id ≠ q.id) → (ctxOf s.dev q.ctx).state = x → x = .idle ∨ x = .running →
      q.parts = [p] → p.rows = q.desc.m → p.failed = false → q.desc.aCirc = false → q.desc.outCirc = false →
      (p.ccb.biasEn = false ∨ p.ccb.outFmt = 5) → q.started = false →
      (∀ g, g < 4 → (engineOf (coreOf s.dev c) g).cmd = none ∧ (engineOf (coreOf s.dev c) g).shadow = none ∧
        (engineOf (coreOf s.dev c) g).active = none) →
      bankFlagged s.dev c 1 = false → bankFlagged s.dev c 2 = false → bankFlagged s.dev c 3 = false → bankFlagged s.dev c 4 = false →
      s.dev.upset = [] → s.dev.poison = [] → (clusterOf s.dev (c / 8)).groups = [] →
      (p.done = 0xFFFF → ∃ t, exec o s = .next t ∧ (coreOf t.dev c).queue = r ∧ (∀ g, g < 4 → (engineOf (coreOf t.dev c) g).cmd = none) ∧
        ∀ j, tallyOf t.dev j = tallyOf s.dev j) ∧
      (∀ key, p.core = c → p.done < 1024 → key = 1024 * (c / 8) + p.done → TallyActs s.dev key p.ctx → (tallyOf s.dev key).barrier = false →
        (tallyOf s.dev key).line = [] → (tallyOf s.dev key).count.toNat < 0xFFFFFF →
        ∃ t, exec o s = .next t ∧ (coreOf t.dev c).queue = r ∧ (∀ g, g < 4 → (engineOf (coreOf t.dev c) g).cmd = none) ∧
          tallyOf t.dev key = { tallyOf s.dev key with count := (tallyOf s.dev key).count + 1 })
    (q.desc.opcode = 1 → Whole (.matmul c n) ∧ Ends (.matmul c n)) ∧ (q.desc.opcode = 2 → Whole (.exactFill c n) ∧ Ends (.exactFill c n))

/-- DMA (R255 to R257): DISSUE of a descriptor that keeps R255 takes the lowest free slot of the cluster and answers 0; with no slot free it
answers 0x0303, and a descriptor that breaks the table 0x0201. A piece of a COPY within core-local memory moves its bytes and the cursor, and
changes no other byte; a piece of a FILL lays the pattern. A finished descriptor frees its slot and performs its DONE_TALLY. -/
def Obligations.DmaDescriptors : Prop :=
  ∀ (s : State), Sound s.dev → s.dev.upset = [] → s.dev.poison = [] →
    (∀ c i f a k, Executes s c i → bankFlagged s.dev c 8 = false → a < 2 ^ 32 → a % 64 = 0 → getX (coreOf s.dev c) f.rs1 = BitVec.ofNat 64 a →
      LocalBytes s.dev c a 64 k →
      let T := parseDma ((List.range 64).map fun j => readByte s.dev.mem (k + j)) (nextSeq s.dev (c / 8)) c i
      let Answers (v : Word) : Prop := ∃ t, exec (.dissue c f) s = .next t ∧ WroteX s t c f.rd v ((coreOf s.dev c).pc + 8)
      (dmaOk s.dev T = false → Answers 0x0201) ∧
      (dmaOk s.dev T = true → (∀ n, n < 256 → dmaAt s.dev (c / 8) n ≠ none) → Answers 0x0303) ∧
      (∀ n, dmaOk s.dev T = true → n < 256 → dmaAt s.dev (c / 8) n = none → (∀ n', n' < n → dmaAt s.dev (c / 8) n' ≠ none) →
        ∃ t, exec (.dissue c f) s = .next t ∧ dmaAt t.dev (c / 8) n = some T ∧ (∀ n', n' ≠ n → dmaAt t.dev (c / 8) n' = dmaAt s.dev (c / 8) n') ∧
          (coreOf t.dev c).pc = (coreOf s.dev c).pc + 8 ∧ (∀ r, getX (coreOf t.dev c) r = if r = f.rd then 0 else getX (coreOf s.dev c) r) ∧
          t.dev.mem = s.dev.mem)) ∧
    (∀ cl slot T b kd, cl < 32 → dmaAt s.dev cl slot = some T → T.fault = none → T.held = false → T.row < T.rows → dmaMay s.dev T.ctx = true →
      admitted s.dev cl T = true → dmaNext s.dev cl T.core = some T.seq → bankFlagged s.dev T.core 6 = false → T.off < T.len →
      T.dst + BitVec.ofNat 64 (T.row * T.dstPitch + T.off) = BitVec.ofNat 64 b → b < 2 ^ 32 →
      let Moves (n : Nat) (v : Nat → Byte) : Prop := ∃ t, exec (.dmaPiece cl slot) s = .next t ∧
        (∀ j, j < n → readByte t.dev.mem (kd + j) = v j) ∧ (∀ x, ¬ (kd ≤ x ∧ x < kd + n) → readByte t.dev.mem x = readByte s.dev.mem x) ∧
        dmaAt t.dev cl slot = some (if T.off + n < T.len then { T with off := T.off + n } else { T with off := 0, row := T.row + 1 })
      (∀ a ka n, T.op = 1 → T.src + BitVec.ofNat 64 (T.row * T.srcPitch + T.off) = BitVec.ofNat 64 a → a < 2 ^ 32 →
        n = min (min 4096 (T.len - T.off)) (min (65536 - a % 65536) (65536 - b % 65536)) →
        LocalBytes s.dev T.core a n ka → LocalBytes s.dev T.core b n kd → Moves n fun j => readByte s.dev.mem (ka + j)) ∧
      (∀ n, T.op = 3 → n = min (min 4096 (T.len - T.off)) (65536 - b % 65536) → LocalBytes s.dev T.core b n kd →
        Moves n fun j => BitVec.ofNat 8 (T.src.toNat / 256 ^ ((T.off + j) % 4)))) ∧
    (∀ cl slot T, cl < 32 → dmaAt s.dev cl slot = some T → T.rows ≤ T.row → (ctxOf s.dev T.ctx).state ≠ .frozen →
      (T.done = 0xFFFF → ∃ t, exec (.dmaComplete cl slot) s = .next t ∧ dmaAt t.dev cl slot = none ∧ t.dev.mem = s.dev.mem ∧
        ∀ j, tallyOf t.dev j = tallyOf s.dev j) ∧
      (∀ x, T.done < 32768 → T.done / 1024 = cl → T.signalN < 65536 → TallyActs s.dev T.done x → (tallyOf s.dev T.done).barrier = false →
        (tallyOf s.dev T.done).line = [] → (tallyOf s.dev T.done).count.toNat + T.signalN ≤ 0xFFFFFF →
        ∃ t, exec (.dmaComplete cl slot) s = .next t ∧ dmaAt t.dev cl slot = none ∧
          tallyOf t.dev T.done = { tallyOf s.dev T.done with count := (tallyOf s.dev T.done).count + BitVec.ofNat 24 T.signalN }))

/-- FAULT_REPLY (R260, R352) at a package that is up and awake: RESUME of an unanswered fault of a paused core lets it run again at the same
instruction; ABORT takes the fault away and faults the task with PAGE_ABORT; a reply to no unanswered fault changes nothing but STALE_REPLIES,
which saturates. -/
def Obligations.FaultReplies : Prop :=
  ∀ (s : State) (x id : Nat), Sound s.dev → x < 64 → id < 2 ^ 32 → hostUp s.dev = true → sleep s.dev = 0 →
    let k := ctxOf s.dev x
    (∀ r c, k.faults.find? (fun r => decide (r.id = id)) = some r → r.core = true → r.unit = c → (coreOf s.dev c).fault = some id →
      (coreOf s.dev c).status = .paused →
      (∃ t, exec (.resume x (BitVec.ofNat 64 (id + 2 ^ 32))) s = .next t ∧
        coreOf t.dev c = { coreOf s.dev c with status := .running, fault := none } ∧
        (ctxOf t.dev x).faults = k.faults.filter (fun r => r.id ≠ id) ∧ t.dev.mem = s.dev.mem) ∧
      (∀ i z, (coreOf s.dev c).inst = some i → i.ctx = x → taskOf s.dev x i.task = some z → z.phase = .running → z.fault = none → c ∈ z.started →
        (coreOf s.dev c).tload = none →
        ∃ t z', exec (.abort x (BitVec.ofNat 64 (id + 2 * 2 ^ 32))) s = .next t ∧ (coreOf t.dev c).inst = none ∧
          taskOf t.dev x i.task = some z' ∧ z'.fault = some (0x1051, c, BitVec.ofNat 64 r.va))) ∧
    ((∀ r ∈ k.faults, r.id ≠ id) → ∀ v : Word, v.toNat % 2 ^ 32 = id →
      let stale (o : Instr) : Prop := ∃ t, exec o s = .next t ∧ (∀ c, coreOf t.dev c = coreOf s.dev c) ∧
        ctxOf t.dev x = { k with stale := if k.stale = 0xFFFF then 0xFFFF else k.stale + 1 }
      stale (.resume x v) ∧ stale (.abort x v))

/-! ### Task graphs -/

/-- SUBMIT (R200, R349): the item at the head of a queue that keeps R348 starts the graph it names where the context has none active: the
queue moves one slot, the context is RUNNING, and the graph has not been accepted. While a graph is active the item waits; an item that
breaks R348 stops the queue at it. -/
def GraphSubmissionHold : Prop :=
  ∀ (s : State) (x : Nat), Sound s.dev → x < 64 →
    let q := sqOf s.dev x
    let k := ctxOf s.dev x
    let b (off n : Nat) : Nat := leNat ((List.range n).map fun j => readByte q.slots (64 * q.head.toNat + off + j))
    (k.state = .idle ∨ k.state = .running) → sleep s.dev = 0 → q.error = false → q.head ≠ q.tail →
    (b 0 3 = 0x000101 → k.graph = none → k.ending = false → q.cqWait = [] → og s.dev 0x2010 1 = 0 → og s.dev 0x3021 (x + 1) = 0 →
      ∃ t g, exec (.submit x) s = .next t ∧ sqOf t.dev x = { q with head := q.head + 1 } ∧
        (ctxOf t.dev x).state = .running ∧ (ctxOf t.dev x).graph = some g ∧ g.va = BitVec.ofNat 64 (b 8 8) ∧ g.accepted = false ∧ g.tasks = [] ∧
        (∀ y, y ≠ x → ctxOf t.dev y = ctxOf s.dev y) ∧ (∀ c, coreOf t.dev c = coreOf s.dev c) ∧ t.dev.mem = s.dev.mem) ∧
    (b 0 3 = 0x000101 → k.graph ≠ none → ∃ t, exec (.submit x) s = .next t ∧ sqOf t.dev x = q ∧
      leNat (bar0Read t.dev (0x80000 * x + 0x400C) 4) / 8 % 2 = 1 ∧
      (∀ y, ctxOf t.dev y = ctxOf s.dev y) ∧ t.dev.mem = s.dev.mem) ∧
    (b 0 1 ≠ 1 → b 0 1 ≠ 2 → b 1 1 ≤ 1 → ∃ t, exec (.submit x) s = .next t ∧ sqOf t.dev x = { q with error := true } ∧
      (∀ y, ctxOf t.dev y = ctxOf s.dev y) ∧ t.dev.mem = s.dev.mem)

/-- A range of a context that a unit of the package can read: mapped, frames in place, no memory error, giving `b`. -/
def UnitReads (d : Dev) (x va : Nat) (b : List Byte) : Prop :=
  usable d x va b.length false = true ∧ hostWaits d x va b.length = false ∧ (unitRead d x va b.length).1 = some b

/-- GRAPH_ACCEPT (R199, R201, R204, R217): a graph whose descriptor, tasks and channels keep their rules is accepted: every task is there
with its descriptor, those without predecessors are ready and the others wait, each on its start tally, in counter mode at 0; a graph whose
own descriptor breaks order 1 is refused with BAD_GRAPH and no tally is touched. -/
def GraphAcceptanceHold : Prop :=
  ∀ (s : State) (x : Nat) (g : Graph), Sound s.dev → s.dev.upset = [] → s.dev.poison = [] → x < 64 → (ctxOf s.dev x).state = .running →
    (ctxOf s.dev x).graph = some g → g.accepted = false → g.stopped = false → g.fault = none →
    (∀ (b : List Byte) (ts : List TaskDesc) (cs : List Chan), b.length = 64 → UnitReads s.dev x g.va.toNat b → graphOk g.va b = true →
      ts.length = fld b 8 4 → cs.length = fld b 32 1 →
      (∀ i t, ts[i]? = some t → taskValid s.dev x t = true ∧ taskAgrees (ts.take i) t = true ∧
        ∃ r, r.length = 128 ∧ UnitReads s.dev x (fld b 0 8 + 128 * i) r ∧ t = parseTask r) →
      (∀ i h, cs[i]? = some h → chanOk s.dev x (cs.take i) h = true ∧
        ∃ r, r.length = 16 ∧ UnitReads s.dev x (fld b 24 8 + 16 * i) r ∧ h = parseChan r) →
      ∃ t g', exec (.graphAccept x) s = .next t ∧ (ctxOf t.dev x).graph = some g' ∧ g'.accepted = true ∧ g'.fault = none ∧
        g'.id = fld b 12 4 ∧ g'.complBase = fld b 16 8 ∧ g'.taskCount = ts.length ∧ g'.chans = cs ∧ g'.startTime = s.dev.otime.count ∧
        t.dev.mem = s.dev.mem ∧
        ∀ i u, ts[i]? = some u → ∃ q, taskOf t.dev x i = some q ∧ q.desc = u ∧ q.phase = (if u.pred = 0 then .ready else .waiting) ∧
          (u.pred ≠ 0 → (tallyOf t.dev (u.startTally % 32768)).count = 0 ∧ (tallyOf t.dev (u.startTally % 32768)).inuse = true ∧
            (tallyOf t.dev (u.startTally % 32768)).barrier = false)) ∧
    (∀ b, b.length = 64 → UnitReads s.dev x g.va.toNat b → graphOk g.va b = false →
      ∃ t g' detail, exec (.graphAccept x) s = .next t ∧ (ctxOf t.dev x).graph = some g' ∧ g'.accepted = false ∧ g'.stopped = true ∧
        g'.fault = some (0x1071, 0xFFFFFFFF, 0, detail) ∧ (∀ j, tallyOf t.dev j = tallyOf s.dev j) ∧ t.dev.mem = s.dev.mem)

/-- How graphs start (R199 to R204, R217, R348, R349): submission, then acceptance or refusal. -/
def Obligations.GraphStarts : Prop := GraphSubmissionHold ∧ GraphAcceptanceHold

/-- INSTANCE_START (R208, R209): the graph unit starts on a free core the first queued task that may run there, in order of priority and
arrival. The core runs from PROG with ARG, the index and count of the run, the task and the core in x1 to x5, every other register zero; no
other core changes. -/
def Obligations.InstanceStarts : Prop :=
  ∀ (s : State) (c x u : Nat) (g : Graph) (z : TaskSt) (pre post : List (Nat × Nat)), Sound s.dev → c < 256 →
    holder s.dev (c / 8) = some x → (ctxOf s.dev x).state = .running → (ctxOf s.dev x).graph = some g → g.accepted = true → g.stopped = false →
    coreFree s.dev c = true → (clusterOf s.dev (c / 8)).ready = pre ++ (x, u) :: post → canStart s.dev x c u = true →
    taskOf s.dev x u = some z →
    (∀ e ∈ pre, e.1 = x → canStart s.dev x c e.2 = false ∨ prioOf s.dev x e.2 < z.desc.prio) →
    (∀ e ∈ post, e.1 = x → canStart s.dev x c e.2 = false ∨ prioOf s.dev x e.2 ≤ z.desc.prio) →
    let rank (m n : Nat) : Nat := ((List.range n).filter fun i => m.testBit i).length
    ∃ t z', exec (.instanceStart c) s = .next t ∧ (coreOf t.dev c).pc = z.desc.prog ∧ (coreOf t.dev c).status = .running ∧
      (∃ i, (coreOf t.dev c).inst = some i ∧ i.ctx = x ∧ i.task = u ∧ i.ftz = z.desc.ftz ∧ i.seed = z.desc.seed) ∧
      (∀ r : BitVec 5, getX (coreOf t.dev c) r =
        if r = 1 then z.desc.arg
        else if r = 2 then BitVec.ofNat 64 (rank z.desc.clusters (c / 8) * rank z.desc.cores 8 + rank z.desc.cores (c % 8))
        else if r = 3 then BitVec.ofNat 64 (rank z.desc.clusters 32 * rank z.desc.cores 8)
        else if r = 4 then BitVec.ofNat 64 u
        else if r = 5 then BitVec.ofNat 64 c else 0) ∧
      (∀ r, getV (coreOf t.dev c) r = 0) ∧ (coreOf t.dev c).latch = none ∧ (coreOf t.dev c).flags = 0 ∧
      (∀ c', c' ≠ c → coreOf t.dev c' = coreOf s.dev c') ∧ t.dev.mem = s.dev.mem ∧
      taskOf t.dev x u = some z' ∧ z'.phase = .running ∧ z'.started = z.started ++ [c]

/-- TASK_COMPLETE, TASK_TIMEOUT and GRAPH_COMPLETE (R201, R211 to R215): a running task whose runs and commands have all completed is done
with its STATUS, and its record is posted when it asks; a task past its TIMEOUT faults with TASK_TIMEOUT; a graph none of whose tasks runs
or will run completes: its record is posted, the context has no active graph and is IDLE. -/
def TaskEndsHold : Prop :=
  ∀ (s : State) (x u : Nat) (g : Graph), Sound s.dev → s.dev.upset = [] → s.dev.poison = [] → (∀ y, harvestDue s.dev y = false) → x < 64 →
    (ctxOf s.dev x).state = .running →
    (ctxOf s.dev x).ending = false → (ctxOf s.dev x).graph = some g →
    (∀ z, taskOf s.dev x u = some z → z.phase = .running →
      (taskOver s.dev x u g z = true → z.desc.stats = 0 → z.desc.succCount = 0 → hostWaits s.dev x (g.complBase + 64 * u) 64 = false →
        let st := if z.cancelled then 2 else if z.fault.isSome then 1 else 0
        ∃ t z', exec (.taskComplete x u) s = .next t ∧ taskOf t.dev x u = some z' ∧ z'.phase = .done st ∧ z'.flags = z.flags ∧ z'.desc = z.desc ∧
          (∀ j, tallyOf t.dev j = tallyOf s.dev j) ∧ (∀ c, coreOf t.dev c = coreOf s.dev c) ∧
          (z.desc.notify = false → (sqOf t.dev x).cqWait = (sqOf s.dev x).cqWait) ∧
          (z.desc.notify = true → ∃ r, (sqOf t.dev x).cqWait = (sqOf s.dev x).cqWait ++ [r] ∧ r.length = 64 ∧ fld r 0 1 = 1 ∧ fld r 1 1 = st ∧
            fld r 2 2 = z.flags.toNat ∧ fld r 4 4 = u % 2 ^ 32 ∧ fld r 12 4 = g.id % 2 ^ 32)) ∧
      (z.desc.timeout ≠ 0 → z.fault = none → z.cancelled = false →
        ∃ t z' unit g', exec (.taskTimeout x u) s = .next t ∧ taskOf t.dev x u = some z' ∧ z'.fault = some (0x1061, unit, 0) ∧
          (∀ c ∈ z.started, runs t.dev x u c = false) ∧ (ctxOf t.dev x).graph = some g' ∧ g'.stopped = true)) ∧
    (graphOver s.dev x g = true → hostWaits s.dev x (g.complBase + 64 * g.taskCount) 64 = false →
      ∃ t r, exec (.graphComplete x) s = .next t ∧ (ctxOf t.dev x).graph = none ∧ (ctxOf t.dev x).state = .idle ∧
      (sqOf t.dev x).cqWait = (sqOf s.dev x).cqWait ++ [r] ∧ r.length = 64 ∧ fld r 0 1 = 2 ∧
      fld r 1 1 = (if g.fault.isSome then 1 else if g.cancelled then 2 else 0) ∧ fld r 12 4 = g.id % 2 ^ 32 ∧
      ∀ y, y ≠ x → (ctxOf t.dev y).graph = (ctxOf s.dev y).graph)

/-- CANCEL (R215, R347): 1 stops dispatch and every run of the active graph, and its running tasks without a fault are cancelled; any other
value changes nothing. -/
def GraphCancellationHold : Prop :=
  ∀ (s : State) (x : Nat) (g : Graph), Sound s.dev → hostUp s.dev = true → x < 64 → (ctxOf s.dev x).state ≠ .frozen →
    (ctxOf s.dev x).graph = some g → g.cancelled = false →
    (∃ t g', exec (.cancel x 1) s = .next t ∧ (ctxOf t.dev x).graph = some g' ∧ g'.cancelled = true ∧ g'.stopped = true ∧ g'.fault = g.fault ∧
      (ctxOf t.dev x).east.on = false ∧ (ctxOf t.dev x).west.on = false ∧
      (∀ u z, taskOf s.dev x u = some z → z.phase = .running → (∀ c ∈ z.started, runs t.dev x u c = false) ∧
        ∃ z', taskOf t.dev x u = some z' ∧ z'.cancelled = z.fault.isNone ∧ z'.phase = .running)) ∧
    ∀ v : W32, v ≠ 1 → ∃ t, exec (.cancel x v) s = .next t ∧ ∀ y, ctxOf t.dev y = ctxOf s.dev y

/-- How tasks and graphs end (R201, R211 to R215, R347): completion, timeouts and cancellation. -/
def Obligations.TaskEnds : Prop := TaskEndsHold ∧ GraphCancellationHold

/-- Channel `ch` of context `x` whose ends are the regions `r` and `w`. -/
def ChannelAt (d : Dev) (x ch : Nat) (h : Chan) (r w : Region) : Prop :=
  ∃ g, (ctxOf d x).graph = some g ∧ g.accepted = true ∧ g.chans[ch]? = some h ∧ r = regionOf d h.srcCl h.srcRg ∧ w = regionOf d h.dstCl h.dstRg ∧
    (h.srcCl, h.srcRg) ≠ (h.dstCl, h.dstRg)

/-- Stream channels (R148, R218, R220): an idle channel with an item at its source and room at its destination takes the item and opens the
destination; a delivery lays the item's bytes at the destination's TAIL, commits it, and releases the source; no other byte changes. A side
that an RFLUSH has turned discards: the old taken item is read, or the write is dropped, and the release or commit only ends that. Regions
whose ITEM differ stop the channel and fault the graph with BAD_CHANNEL and move nothing. -/
def Obligations.ChannelItems : Prop :=
  ∀ (s : State) (x ch : Nat) (h : Chan) (r w : Region), Sound s.dev → s.dev.upset = [] → s.dev.poison = [] → x < 64 →
    (ctxOf s.dev x).state = .running → (ctxOf s.dev x).harvesting = false → (∀ y, harvestDue s.dev y = false) →
    ChannelAt s.dev x ch h r w → r.valid = true → w.valid = true → h.stopped = false →
    (∀ ka kb, h.flight = none → fabricFlagged s.dev h.srcCl 2 = false → r.item = w.item → r.count ≠ 0 → r.taken = false → w.count < w.cap →
      w.opened = false → LocalBytes s.dev (8 * h.srcCl) (r.base + takenItem r * r.item) r.item ka →
      LocalBytes s.dev (8 * h.dstCl) (w.base + w.tail * w.item) w.item kb →
      ∃ t h', exec (.channelItemMove x ch) s = .next t ∧
        ChannelAt t.dev x ch h' { r with taken := !r.discC } { w with opened := !w.discP } ∧
        h' = { h with flight := h'.flight } ∧
        (∃ m, h'.flight = some ((List.range r.item).map (fun j => readByte s.dev.mem (ka + j)), m)) ∧
        t.dev.mem = s.dev.mem) ∧
    (h.flight = none → fabricFlagged s.dev h.srcCl 2 = false → r.item ≠ w.item → ∃ t g' g, exec (.channelItemMove x ch) s = .next t ∧
      (ctxOf s.dev x).graph = some g ∧ (ctxOf t.dev x).graph = some g' ∧ g'.stopped = true ∧ g'.chans[ch]? = some { h with stopped := true } ∧
      (g.fault = none → g.cancelled = false → g'.fault = some (0x1073, 0xFFFFFFFF, 0, BitVec.ofNat 64 ch)) ∧
      (∀ cl j, regionOf t.dev cl j = regionOf s.dev cl j) ∧ t.dev.mem = s.dev.mem) ∧
    (∀ bs m kb, h.flight = some (bs, m) → (∀ b ∈ m, b = false) → bs.length = w.item → (r.discC = false → r.taken = true) →
      (w.discP = false → w.opened = true) → LocalBytes s.dev (8 * h.dstCl) (w.base + w.tail * w.item) w.item kb →
      h.srcTally = 0xFFFF → h.dstTally = 0xFFFF →
      ∃ t, exec (.channelDeliver x ch) s = .next t ∧
        ChannelAt t.dev x ch { h with flight := none }
          (if r.discC then { r with discC := false } else { r with head := (r.head + 1) % r.cap, count := r.count - 1, taken := false })
          (if w.discP then { w with discP := false } else { w with tail := (w.tail + 1) % w.cap, count := w.count + 1, opened := false }) ∧
        (w.discP = true → t.dev.mem = s.dev.mem) ∧
        (w.discP = false → ∀ j, j < bs.length → readByte t.dev.mem (kb + j) = bs.getD j 0) ∧
        ∀ a, ¬ (kb ≤ a ∧ a < kb + bs.length) → readByte t.dev.mem a = readByte s.dev.mem a)

/-! ### Object writes, contexts and memory of contexts -/

/-- The firmware runs, PKG_STATE is READY, the package is awake and no request waits. -/
structure Ready (d : Dev) : Prop where
  vaux : d.power.vaux = true
  boot : bootDone d = true
  started : og d 0x1000 7 = 1
  awake : sleep d = 0
  idle : d.mgmt.queue = []

/-- A write of an object was answered with `status`: the newest journal entry names it, and the answer is at its door (R359, R376). -/
def WriteAnswered (s t : State) (src : Source) (idx sub status : Nat) : Prop :=
  t.meter = s.meter ∧ (∃ e, t.dev.mgmt.journal.getLast? = some e ∧ e.index = idx ∧ e.sub = sub ∧ e.status = status) ∧
    let msg := message 2 src.txn.toNat idx sub 1 status 0 []
    match src.door with
    | .mailbox => t.dev.host.done = true ∧ t.dev.host.busy = false ∧ t.dev.host.rspLen = 16 ∧
        ∀ j, j < 16 → readByte t.dev.host.rsp j = msg.getD j 0
    | .segment mac => t.dev.out.getLast? = some (.frame (etherFrame mac (padded msg)))

/-- Objects that just hold the value written to them. -/
def plainObject (idx sub : Nat) : Bool :=
  (decide (idx = 0x1100) && decide (2 ≤ sub) && decide (sub ≤ 5)) || (decide (idx = 0x3010) && decide (sub = 2)) ||
    (decide (idx = 0x3027) && decide (1 ≤ sub) && decide (sub ≤ 64)) || (decide (idx = 0x3061) && decide (sub = 0)) ||
    (decide (idx = 0x4073) && decide (1 ≤ sub) && decide (sub ≤ 64)) || (decide (idx = 0x6031) && (decide (sub = 1) || decide (sub = 2))) ||
    (decide (0x7001 ≤ idx) && decide (idx ≤ 0x7003) && decide (1 ≤ sub) && decide (sub ≤ 6)) ||
    (decide (idx = 0x7010) && decide (1 ≤ sub) && decide (sub ≤ 4))

/-- OBJECT_WRITE (R360, R366 to R368, R370, R376): every write is answered and journalled. No such entry is 0x0101; a wrong length is 0x0202;
read-only and constant entries 0x0102; SEALED ones 0x0104; a refused write changes no object but the journal's counts. An accepted write to
an object that just holds its value stores it, and no other object changes. -/
def Obligations.ObjectWrites : Prop :=
  ∀ (s : State) (src : Source) (idx sub : Nat) (data : List Byte), Sound s.dev → Ready s.dev → idx < 65536 → sub < 256 →
    let Answers (status : Nat) : Prop := ∃ t, exec (.objectWrite src idx sub data) s = .next t ∧ WriteAnswered s t src idx sub status ∧
      (∀ i j, j < 256 → i ≠ 0xA000 → og t.dev i j = og s.dev i j) ∧ (∀ x, ctxOf t.dev x = ctxOf s.dev x) ∧ t.dev.mem = s.dev.mem
    (objEntry idx sub = none → Answers 0x0101) ∧
    (∀ a t, objEntry idx sub = some (a, t) →
      (lengthOk t data.length = false → Answers 0x0202) ∧
      (lengthOk t data.length = true → (a = .ro ∨ a = .const → Answers 0x0102) ∧ (a = .sealed → Answers 0x0104) ∧
        (a = .wonce → s.dev.mgmt.asset ≠ none → Answers 0x0103))) ∧
    (writeStatus s.dev idx sub data [] ≠ 0 → Answers (writeStatus s.dev idx sub data [])) ∧
    (plainObject idx sub = true → writeStatus s.dev idx sub data [] = 0 → ∃ t, exec (.objectWrite src idx sub data) s = .next t ∧
      WriteAnswered s t src idx sub 0 ∧ og t.dev idx sub = leNat data ∧
      ∀ i j, j < 256 → i ≠ 0xA000 → (i, j) ≠ (idx, sub) → og t.dev i j = og s.dev i j)

/-- Cluster `cl` holds nothing: its memories, tallies and cores read as zero (R158, R243). -/
def ClusterEmpty (d : Dev) (cl : Nat) : Prop :=
  (∀ c a, c / 8 = cl → a < 0x600000 → readByte d.mem (spKey c a) = 0) ∧ (∀ a, a < 0x1000000 → readByte d.mem (shKey cl a) = 0) ∧
    (∀ c, c / 8 = cl → coreOf d c = Core.reset) ∧ ∀ k, k / 1024 = cl → tallyOf d k = Tally.reset

/-- A cluster of context `x`. -/
def HasCluster (d : Dev) (x cl : Nat) : Prop := cl < 32 ∧ (maskOf d x).testBit cl = true

/-- The commands of STATE (R158 to R160, R261, R265, R268, R269) where they are accepted: CREATE makes a FREE context IDLE with its salt
latched and its queue block reset; END of an idle context and KILL zero its clusters; END of a running one waits for the graph; PREEMPT and
PREEMPT_FORCED begin a harvest of their kind, the latter with every run held; RESTORE begins on the context's clusters; ADOPT zeroes them. A
refused command is answered with its status and changes no context. -/
def Obligations.ContextCommands : Prop :=
  ∀ (s : State) (src : Source) (x : Nat), Sound s.dev → Ready s.dev → s.dev.upset = [] → s.dev.poison = [] → x < 64 →
    let k := ctxOf s.dev x
    let idx := 0x5000 + 16 * x
    let status (code : Nat) : Nat := writeStatus s.dev idx 1 (toLE 4 code) []
    let Does (o : Instr) (p : State → Prop) : Prop := ∃ t, exec o s = .next t ∧ WriteAnswered s t src idx 1 0 ∧ p t
    let zeroed (t : State) : Prop := ∀ cl, HasCluster s.dev x cl → (clusterOf t.dev cl).zeroing = true ∧ ClusterEmpty t.dev cl
    (∃ cl, HasCluster s.dev x cl) →
    (k.state = .free → (∀ cl, HasCluster s.dev x cl →
        holder s.dev cl = none ∧ (clusterOf s.dev cl).zeroing = false ∧ (clusterOf s.dev cl).unassigned = false) →
      Does (.create src x) fun t => ctxOf t.dev x = { Ctx.reset with state := .idle, salt := cobj s.dev x 9 } ∧
        sqOf t.dev x = { Sq.reset with cqWait := (sqOf s.dev x).cqWait } ∧
        (∀ y, y ≠ x → ctxOf t.dev y = ctxOf s.dev y) ∧ t.dev.mem = s.dev.mem) ∧
    (x ≠ 0 → k.state = .idle → k.graph = none → Does (.endContext src x) fun t => (ctxOf t.dev x).state = .scrubbing ∧ zeroed t) ∧
    (x ≠ 0 → k.state = .running → k.graph ≠ none → Does (.endContext src x) fun t => ctxOf t.dev x = { k with ending := true } ∧
      (∀ c, coreOf t.dev c = coreOf s.dev c) ∧ t.dev.mem = s.dev.mem) ∧
    (x ≠ 0 → k.state = .idle ∨ k.state = .running ∨ k.state = .preempting ∨ k.state = .restoring ∨ k.state = .reclaiming ∨ k.state = .frozen →
      Does (.kill src x) fun t => (ctxOf t.dev x).state = .scrubbing ∧ (ctxOf t.dev x).graph = none ∧ zeroed t) ∧
    (status 4 = 0 → Does (.preempt src x) fun t => (ctxOf t.dev x).state = .preempting ∧ (ctxOf t.dev x).hkind = 1) ∧
    (status 5 = 0 → ringTrains s.dev x = 0 → (k.state = .preempting → k.harvesting = false ∧ k.hkind = 1) → Does (.preemptForced src x) fun t =>
      (ctxOf t.dev x).state = .preempting ∧ (ctxOf t.dev x).hkind = 2 ∧
      ∀ c cl, HasCluster s.dev x cl → c / 8 = cl → (coreOf s.dev c).inst ≠ none → (coreOf t.dev c).held = true) ∧
    (status 6 = 0 → Does (.restore src x) fun t => ctxOf t.dev x = { k with state := .restoring }) ∧
    (status 7 = 0 → Does (.adopt src x) fun t => (ctxOf t.dev x).state = .scrubbing ∧ (ctxOf t.dev x).adopting = true ∧ zeroed t) ∧
    (∀ code o, (code, o) ∈ [(1, Instr.create src x), (2, .endContext src x), (3, .kill src x), (4, .preempt src x), (5, .preemptForced src x),
        (6, .restore src x), (7, .adopt src x)] → status code ≠ 0 →
      ∃ t, exec o s = .next t ∧ WriteAnswered s t src idx 1 (status code) ∧ ∀ y, ctxOf t.dev y = ctxOf s.dev y)

/-- Nothing is due for reclaim (R272). -/
def NoReclaim (d : Dev) : Prop := ∀ y, cobj d y 8 ≠ 1 ∧ (ctxOf d y).state ≠ .reclaiming

/-- How a context's clusters are given up and come back (R159, R160, R261, R267, R268, R272, R273): HARVEST_COMPLETE writes COMPLETE last,
keeps the registers of the cores and the graph, and zeroes the clusters; SCRUB_COMPLETE frees the context with its pages unmapped, and leaves clusters that failed
unassigned; RESTORE_COMPLETE puts registers and the graph back and the context runs. -/
def ContextMovesHold : Prop :=
  ∀ (s : State) (x : Nat), Sound s.dev → s.dev.upset = [] → s.dev.poison = [] → x < 64 → NoReclaim s.dev →
    let k := ctxOf s.dev x
    (∀ va p f, k.state = .preempting → k.harvesting = true → k.hkind = 1 ∨ k.hkind = 2 → va = areaVa s.dev x (nextArea s.dev x) → va % 65536 = 0 →
      va + 65536 ≤ 2 ^ 52 → pageAt s.dev x va = some p → p.kind = 0 → p.frame = some f → p.w = true →
      (∀ cl, HasCluster s.dev x cl → (clusterOf s.dev cl).cache = []) →
      ∃ t, exec (.harvestComplete x) s = .next t ∧ (ctxOf t.dev x).newest = some (nextArea s.dev x) ∧ (ctxOf t.dev x).hkind = 0 ∧
        (ctxOf t.dev x).graph = none ∧ (∃ sn, t.dev.images = s.dev.images ++ [sn] ∧ sn.seq = k.seq ∧ sn.began = k.began ∧
          sn.mask = maskOf s.dev x ∧ sn.graph = k.graph ∧ ∀ c, HasCluster s.dev x (c / 8) →
            (look Core.reset sn.cores c).pc = (coreOf s.dev c).pc ∧ ∀ r, getX (look Core.reset sn.cores c) r = getX (coreOf s.dev c) r) ∧
        leNat ((List.range 4).map fun j => readByte t.dev.mem (frameKey 0 f + va % 2097152 + 0x3C + j)) = 1 ∧
        ∀ cl, HasCluster s.dev x cl → (clusterOf t.dev cl).zeroing = true ∧ ClusterEmpty t.dev cl) ∧
    (∀ failed n, k.state = .scrubbing → k.adopting = false → (∃ cl, HasCluster s.dev x cl ∧ (clusterOf s.dev cl).zeroing = true) →
      ∃ t, exec (.scrubComplete x failed n) s = .next t ∧ (ctxOf t.dev x).state = .free ∧ sqOf t.dev x = { Sq.reset with cqWait := (sqOf s.dev x).cqWait } ∧
        (∀ va, va < 2 ^ 52 → pageAt t.dev x va = none) ∧
        ∀ cl, HasCluster s.dev x cl → (clusterOf s.dev cl).zeroing = true →
          (clusterOf t.dev cl).zeroing = false ∧ (clusterOf t.dev cl).unassigned = ((clusterOf s.dev cl).unassigned || failed.contains cl)) ∧
    (∀ i sn, k.state = .restoring → (∀ y, (ctxOf s.dev y).state ≠ .preempting) → newestArea s.dev x = some i →
      s.dev.images[leNat (readArea s.dev x (areaVa s.dev x i + 0x4000) 8).1]? = some sn → sn.seq = fld (areaHeader s.dev x i) 0 4 →
      sn.began.toNat = fld (areaHeader s.dev x i) 0x10 8 → sn.mask = fld (areaHeader s.dev x i) 8 4 → fld (areaHeader s.dev x i) 0x24 4 = 0 →
      fld (areaHeader s.dev x i) 0x20 4 = 0 → Rising sn.cores → (∀ e ∈ sn.cores, CoreSound e.2) →
      ∃ t, exec (.restoreComplete x) s = .next t ∧ (ctxOf t.dev x).state = (if sn.graph.isSome then .running else .idle) ∧
        (ctxOf t.dev x).graph = sn.graph ∧ (ctxOf t.dev x).newest = some i ∧
        ∀ e ∈ sn.cores, HasCluster s.dev x (e.1 / 8) → (coreOf t.dev e.1).pc = e.2.pc ∧ ∀ r, getX (coreOf t.dev e.1) r = getX e.2 r)

/-- RECLAIM_PAGE_MOVED (R272, R273): while the context's HBM use exceeds its quota, the page that is next moves to the lowest free frame of the
tier with its bytes, and its HBM frame is free again. -/
def PageReclaimHold : Prop :=
  ∀ (s : State) (x key h : Nat) (p : Page), Sound s.dev → s.dev.upset = [] → s.dev.poison = [] → x < 64 → reclaimDue s.dev x = true →
    (ctxOf s.dev x).state = .harvested → (ctxOf s.dev x).stalled = false → nextPage s.dev x = some (key, p) → p.frame = some h →
    h < 183105 → tierRoom s.dev x = true →
    ∃ t f p', exec (.reclaimPageMoved x) s = .next t ∧ look none t.dev.vm.pages key = some p' ∧ p'.kind = 1 ∧ p'.frame = some f ∧ p'.w = p.w ∧
      look false s.dev.vm.tierUsed f = false ∧ look false t.dev.vm.tierUsed f = true ∧ look false t.dev.vm.hbmUsed h = false ∧
      (∀ j, j < 2097152 → readByte t.dev.mem (frameKey 1 f + j) = readByte s.dev.mem (frameKey 0 h + j))

/-- Harvest, scrub, restore and reclaim of contexts (R158 to R160, R267, R268, R272, R273). -/
def Obligations.ContextMoves : Prop := ContextMovesHold ∧ PageReclaimHold

/-- MAP, UNMAP and PROTECT (R245, R247, R248, R250, R429) where they are accepted: MAP lists every page of the range with its kind,
permission and pin, a host page at its bus address and an HBM or tier page with a frame unless DEMAND asks for none yet; UNMAP leaves no
page of the range; PROTECT changes only W. A refused request changes no page. -/
def Obligations.PageMapping : Prop :=
  ∀ (s : State) (src : Source) (data : List Byte), Sound s.dev → Ready s.dev → NoReclaim s.dev → data.length = 32 →
    let m := parseMap data
    let inRange (va : Nat) : Prop := m.va ≤ va ∧ va < m.va + m.bytes
    let Does (o : Instr) (p : State → Prop) : Prop := ∃ t, exec o s = .next t ∧ WriteAnswered s t src 0x4060 0 0 ∧ p t
    (mapCheck s.dev data = 0 →
      (m.op = 1 → Does (.map src data) fun t => ∀ i, i < m.count → ∃ p, look none t.dev.vm.pages (pageKey m.ctx (m.va + i * m.step)) = some p ∧
        p.kind = m.kind ∧ p.w = m.w ∧ p.pin = m.pin ∧ (m.kind = 2 → p.addr = m.host + i * 65536) ∧
        (m.kind < 2 → (p.frame = none ↔ m.demand = true))) ∧
      (m.op = 2 → Does (.unmap src data) fun t => (∀ va, inRange va → pageAt t.dev m.ctx va = none) ∧
        (∀ va, va < m.va ∨ m.va + m.bytes ≤ va → va < 2 ^ 52 → pageAt t.dev m.ctx va = pageAt s.dev m.ctx va) ∧ t.dev.mem = s.dev.mem) ∧
      (m.op = 3 → Does (.protect src data) fun t =>
        (∀ va, inRange va → pageAt t.dev m.ctx va = (pageAt s.dev m.ctx va).map fun p => { p with w := m.w }) ∧
        (∀ va, va < m.va ∨ m.va + m.bytes ≤ va → va < 2 ^ 52 → pageAt t.dev m.ctx va = pageAt s.dev m.ctx va) ∧ t.dev.mem = s.dev.mem)) ∧
    (∀ o, (m.op = 1 ∧ o = .map src data) ∨ (m.op = 2 ∧ o = .unmap src data) ∨ (m.op = 3 ∧ o = .protect src data) → mapCheck s.dev data ≠ 0 →
      ∃ t, exec o s = .next t ∧ WriteAnswered s t src 0x4060 0 (mapCheck s.dev data) ∧ t.dev.vm = s.dev.vm)

/-- Loads (R276 to R280): an accepted LOAD runs from byte 0; CANCEL_LOAD aborts a load that runs; a piece from outside the package lands
at its place and the last one completes the load, else the read of the next one leaves toward its source on paths 2 and 3; a read lost with its
link is issued once more, then the load ends with LINK_LOST, and any other error ends it with SOURCE_ERROR; PEER_READ answers the bytes of an
exported context. -/
def Obligations.WeightLoads : Prop :=
  ∀ (s : State) (x : Nat), Sound s.dev → s.dev.upset = [] → s.dev.poison = [] → x < 64 →
    let l := (ctxOf s.dev x).load
    (∀ src data image, Ready s.dev → NoReclaim s.dev → data.length = 64 → (parseLoad data).ctx = x →
      ((parseLoad data).op = 1 → loadCheck s.dev data image = 0 → loadWaits s.dev data = false →
        ∃ t, exec (.load src data image) s = .next t ∧ WriteAnswered s t src 0x4070 0 0 ∧
        (ctxOf t.dev x).load.state = 1 ∧ (ctxOf t.dev x).load.bytes = 0 ∧ (ctxOf t.dev x).load.hbmVa = (parseLoad data).hbmVa ∧
        (ctxOf t.dev x).load.length = (shardPlace s.dev (parseLoad data) image).2) ∧
      ((parseLoad data).op = 2 → x ≠ 0 → ∃ t, exec (.cancelLoad src data) s = .next t ∧ WriteAnswered s t src 0x4070 0 0 ∧
        (ctxOf t.dev x).load = if l.state = 1 then { l with state := 3, reason := 1 } else l)) ∧
    (l.state = 1 → l.path ≠ 1 → s.dev.host.busMaster = true →
      let toward (off : Nat) : Option Nat := portToward s.dev (sourceOf s.dev l.path l.peer off)
      (∀ data kb p, data ≠ [] → data.length ≤ l.room → data.length ≤ 65536 - l.at l.bytes % 65536 → l.at l.bytes + data.length ≤ 2 ^ 52 →
        PageByte s.dev x (l.at l.bytes) kb p → p.w = true →
        ∃ t, exec (.loadPiece x data 0) s = .next t ∧ (∀ j, j < data.length → readByte t.dev.mem (kb + j) = data.getD j 0) ∧
          (∀ a, ¬ (kb ≤ a ∧ a < kb + data.length) → readByte t.dev.mem a = readByte s.dev.mem a) ∧
          (let n := l.bytes + data.length
           let l' := { l with bytes := n, state := if l.length ≤ n then 2 else 1, via := none }
           (ctxOf t.dev x).load = if l.length ≤ n ∨ l.path < 2 then l' else match toward n with
             | some q => { l' with via := some q, reissued := false }
             | none => { l' with state := 3, reason := 3 })) ∧
      (∀ data err, err ≠ 0 → ∃ t, exec (.loadPiece x data err) s = .next t ∧ t.dev.mem = s.dev.mem ∧
        (err ≠ 3 ∨ l.path < 2 → (ctxOf t.dev x).load = { l with state := 3, reason := 5, via := none }) ∧
        (err = 3 → 2 ≤ l.path → l.reissued = true → (ctxOf t.dev x).load = { l with state := 3, reason := 3, via := none }) ∧
        (err = 3 → 2 ≤ l.path → l.reissued = false → l.bytes < l.length → (ctxOf t.dev x).load = match toward l.bytes with
          | some q => { l with via := some q, reissued := true }
          | none => { l with state := 3, reason := 3, via := none }))) ∧
    (∀ va n kb p, og s.dev 0x4073 (x + 1) = 1 → usable s.dev x va n false = true → 0 < n → n ≤ 65536 - va % 65536 → PageByte s.dev x va kb p →
      ∃ t, exec (.peerRead x va n) s = .next t ∧
        t.dev.out = s.dev.out ++ [.peerData ((List.range n).map fun j => readByte s.dev.mem (kb + j))] ∧ t.dev.mem = s.dev.mem)

/-! ### Upkeep of the chip -/

/-- The windfall log holds a record of this code (R331, R340). -/
def LogsWindfall (d : Dev) (code : Nat) : Prop := ∃ w ∈ d.faults.wf, w.toNat % 65536 = code

/-- The patrol scrubber corrects what it reads and keeps every byte (R156, R157); a requester held past its limit is flagged, counted and
reported, and its context freezes (R168, R171, R334); clearing a flag lets it back (R168); COMMIT makes every shadow copy live (R173); a new
division of a cluster's shared memory empties its cache and zeroes what changed its role (R152); the hot channel window names the busiest
pseudo-channel and its first context (R254); the debug port reads memory, but not of a cluster that is being zeroed (R160). -/
def Obligations.ChipUpkeep : Prop :=
  ∀ (s : State), Sound s.dev →
    (∀ kind u bank word k, patrolKey kind u bank word = some k → s.dev.power.state < 3 → s.dev.poison = [] → og s.dev 0x8010 1 < 2 ^ 64 →
      ∃ t, exec (.patrolScrub kind u bank word) s = .next t ∧ t.dev.mem = s.dev.mem ∧
        (∀ g, k / 8 ≤ g → g < k / 8 + 8 → look false t.dev.upset g = false) ∧
        og t.dev 0x8010 1 = min (og s.dev 0x8010 1 + (marksIn s.dev.upset k 64).length) (2 ^ 64 - 1)) ∧
    (∀ site die inst req x, site < 4 → die < 5 → inst < 512 → req < 32 → x < 64 → og s.dev 0x7020 (site + 1) < 2 ^ 32 →
      ∃ t, exec (.holdLimitCutoff site die inst req x) s = .next t ∧ flagged t.dev site die inst req = true ∧ LogsWindfall t.dev 0x0004 ∧
        og t.dev 0x7020 (site + 1) = min (og s.dev 0x7020 (site + 1) + 1) (2 ^ 32 - 1) ∧
        (canFreeze s.dev x = true → (ctxOf s.dev x).ending = false → (ctxOf t.dev x).state = .frozen)) ∧
    (∀ src sub data, Ready s.dev → s.dev.host.held = [] → 1 ≤ sub → sub ≤ 32 → data.length = 4 → ∃ t, exec (.flagged src sub data) s = .next t ∧
      WriteAnswered s t src 0x7021 sub 0 ∧ og t.dev 0x7021 sub < 2 ^ 32 ∧
      BitVec.ofNat 32 (og t.dev 0x7021 sub) = BitVec.ofNat 32 (og s.dev 0x7021 sub) &&& ~~~BitVec.ofNat 32 (leNat data)) ∧
    (∀ src, Ready s.dev → ∃ t, exec (.commitArbitration src [1]) s = .next t ∧ WriteAnswered s t src 0x70FF 0 0 ∧
      (∀ k ∈ shadowKeys, look (objDefault k) t.dev.live k = look (objDefault k) s.dev.obj k) ∧ commitPending t.dev = false ∧
      og t.dev 0x70FE 0 = (og s.dev 0x70FE 0 + 1) % 2 ^ 32) ∧
    (∀ src cl (v : Byte) idx o, Ready s.dev → s.dev.upset = [] → s.dev.poison = [] → cl < 32 →
      (idx = 0x4010 ∧ o = Instr.clusterCache src (cl + 1) [v] ∨ idx = 0x4011 ∧ o = .batcherEn src (cl + 1) [v]) →
      divisionCheck s.dev idx cl v.toNat = 0 → ∃ t, exec o s = .next t ∧ WriteAnswered s t src idx (cl + 1) 0 ∧
        og t.dev idx (cl + 1) = v.toNat ∧ (∀ l, lineAt t.dev cl l = none) ∧
        ∀ i j, i < 8 → j < 0x200000 →
          roleOf (og s.dev 0x4010 (cl + 1)) (og s.dev 0x4011 (cl + 1)) i ≠ roleOf (og t.dev 0x4010 (cl + 1)) (og t.dev 0x4011 (cl + 1)) i →
          readByte t.dev.mem (shKey cl (i * 0x200000) + j) = 0) ∧
    (∀ (l : List (Nat × Nat × Nat)) ch x, (∀ e ∈ l, e.1 < 512 ∧ e.2.1 < 64) → ch < 512 → x < 64 →
      (∀ c, c < 512 → c ≠ ch → channelSum l c < channelSum l ch) → (∀ y, y < 64 → y ≠ x → channelCtxSum l ch y < channelCtxSum l ch x) →
      channelSum l ch < (l.map fun e => e.2.2).sum → ∃ t, exec (.hotChannelWindow l) s = .next t ∧ og t.dev 0x4020 1 = ch ∧
        og t.dev 0x4020 2 = channelSum l ch * 256 / (l.map fun e => e.2.2).sum ∧ og t.dev 0x4020 3 = x) ∧
    (∀ c a n k, c < 256 → LocalBytes s.dev c a n k → s.dev.upset = [] → s.dev.poison = [] →
      ((clusterOf s.dev (c / 8)).zeroing = false → ∃ t, exec (.debugPortAccess (.readOnChip c a n)) s = .next t ∧ t.dev.mem = s.dev.mem ∧
        t.dev.out = s.dev.out ++ [.debugData ((List.range n).map fun j => readByte s.dev.mem (k + j))]) ∧
      ((clusterOf s.dev (c / 8)).zeroing = true → exec (.debugPortAccess (.readOnChip c a n)) s =
        .next { s with dev := { s.dev with out := s.dev.out ++ [.debugRefused] } }))

/-! ### The ring -/

/-- The entry at which a send list stands: the first one as it was read at the graph's start, each other one as memory has it (R287, R294). -/
def SendsNext (d : Dev) (x dir : Nat) (e : SendEntry) : Prop :=
  let l := sendOf (ctxOf d x) dir
  ∃ b, b.length = 32 ∧ parseSend b = e ∧ entryOk d x dir e = true ∧
    match (if l.entry = 0 then l.first else none) with
    | some f => b = f
    | none => UnitReads d x (listVa d x dir + 32 * l.entry) b

/-- A send list that has run its current entry. -/
def EntryDone (d : Dev) (x dir : Nat) (l : SendList) : SendList :=
  { l with entry := l.entry + 1, go := false, unit := 0, on := l.on && decide (l.entry + 1 < listCount d x dir) }

/-- The ring forms and sends (R285 to R288, R292 to R295, R301, R304): RING_ENABLE starts or stops it; the form check makes it UP where both
neighbours are its own, MISWIRED where either is not, and waits while it cannot tell; an entry goes at once without a GO tally, or takes its
count from one; a resident context's entry sends nothing and the list moves on; a bound one's units are read and wait at egress as a train under
the next SEQ, one at a time; an egress grant sends the flits of the winner, sealed and numbered, and as a train leaves, SEQ and the list that
sent it move on. -/
def Obligations.RingSending : Prop :=
  ∀ (s : State), Sound s.dev → s.dev.upset = [] → s.dev.poison = [] → NoHarvest s.dev →
    (∀ src, Ready s.dev → ringLocked s.dev = false →
      (∃ t, exec (.ringEnable src [0]) s = .next t ∧ WriteAnswered s t src 0x3000 1 0 ∧ og t.dev 0x3000 1 = 0 ∧ og t.dev 0x3000 5 = 0) ∧
      (og s.dev 0x3000 5 = 0 → ∃ t, exec (.ringEnable src [1]) s = .next t ∧ WriteAnswered s t src 0x3000 1 0 ∧ og t.dev 0x3000 1 = 1 ∧
        og t.dev 0x3000 5 = if og s.dev 0x3000 2 = 1 then 2 else 1)) ∧
    (og s.dev 0x3000 5 = 1 →
      let up (dir : Nat) : Prop := portUp s.dev (ringPort s.dev dir) = true
      let good (dir pos : Nat) : Prop := partnerOk s.dev (ringPort s.dev dir) (pos % og s.dev 0x3000 2) = true
      let east := good 0 (og s.dev 0x3000 3 + 1)
      let west := good 1 (og s.dev 0x3000 3 + og s.dev 0x3000 2 - 1)
      (up 0 → east → up 1 → west → ∃ t, exec .ringFormCheck s = .next t ∧ og t.dev 0x3000 5 = 2) ∧
      ((up 0 ∧ ¬ east) ∨ (up 1 ∧ ¬ west) → ∃ t, exec .ringFormCheck s = .next t ∧ og t.dev 0x3000 5 = 3) ∧
      (¬ (up 0 ∧ up 1) → (up 0 → east) → (up 1 → west) → exec .ringFormCheck s = .next s)) ∧
    (∀ x dir e, x < 64 → dir < 2 → (ctxOf s.dev x).state = .running →
      let l := sendOf (ctxOf s.dev x) dir
      let code := ringPort s.dev dir
      let bytes := unitBytes e.kind e.fmt
      let all : Prop := ringBound s.dev x = true → l.unit = 0 → inFrames s.dev x (e.src + bytes * e.first) (bytes * e.units) = true
      l.on = true → SendsNext s.dev x dir e → all →
      (l.waiting = false → l.unit = 0 → l.go = false →
        (e.go = 0xFFFF → ∃ t, exec (.sendEntryGo x dir) s = .next t ∧ sendOf (ctxOf t.dev x) dir = { l with go := true } ∧
          (∀ j, tallyOf t.dev j = tallyOf s.dev j)) ∧
        (∀ y, e.go ≠ 0xFFFF → y = tallyOf s.dev (e.go % 32768) → y.inuse = true → y.barrier = false →
          (y.line = [] → e.goN ≤ y.count.toNat → ∃ t, exec (.sendEntryGo x dir) s = .next t ∧ sendOf (ctxOf t.dev x) dir = { l with go := true } ∧
            tallyOf t.dev (e.go % 32768) = { y with count := y.count - BitVec.ofNat 24 e.goN }) ∧
          (y.line ≠ [] ∨ y.count.toNat < e.goN → ∃ t, exec (.sendEntryGo x dir) s = .next t ∧
            sendOf (ctxOf t.dev x) dir = { l with waiting := true } ∧
            tallyOf t.dev (e.go % 32768) = { y with line := y.line ++ [(.sendList x dir, BitVec.ofNat 24 e.goN, none)] }))) ∧
      (l.go = true → e.done = 0xFFFF → sending s.dev x dir = false →
        (ringBound s.dev x = false → ∃ t, exec (.trainSend x dir) s = .next t ∧ sendOf (ctxOf t.dev x) dir = EntryDone s.dev x dir l ∧
          t.dev.out = s.dev.out) ∧
        (∀ seq, ringBound s.dev x = true → ringUp s.dev = true → portUp s.dev code = false → (portOf s.dev code).egress = [] → l.unit < e.units →
          sendWaits s.dev x dir e = false →
          usable s.dev x (e.src + bytes * (e.first + l.unit)) (bytes * min e.per (e.units - l.unit)) false = true →
          seq = look 0 (ctxOf s.dev x).sent (2 * e.kind + dir) → seq < 2 ^ 32 →
          ∃ t u, exec (.trainSend x dir) s = .next t ∧ sendOf (ctxOf t.dev x) dir = l ∧ (portOf t.dev code).egress = [u] ∧ u.ctx = x ∧
            u.vc = (if e.kind = 1 then 0 else 1) ∧ u.stream = none ∧ u.forwarded = false ∧ u.more = false ∧
            (let n := min e.per (e.units - l.unit)
             let last := decide (e.units ≤ l.unit + n)
             u.own = some ⟨dir, n, last, 0xFFFF⟩ ∧ u.chunks.flatten.length = 64 + bytes * n ∧
               u.chunks.flatten.take 64 = trainHeader s.dev x dir e (e.first + l.unit) n seq last)))) ∧
    (∀ x dir, x < 64 → dir < 2 → sending s.dev x dir = true → portOfLink (leadLink (ringPort s.dev dir)) = ringPort s.dev dir →
      exec (.trainSend x dir) s = exec (.flitForward (leadLink (ringPort s.dev dir))) s) ∧
    (∀ l u c n m, l < 19 →
      let code := portOfLink l
      let p := portOf s.dev code
      p.egress = [u] → u.stream = none → u.chunks = [c] → u.more = false → u.link = none → u.msg = none → (∀ o, u.own = some o → o.done = 0xFFFF) →
      competes s.dev code u = true → portUp s.dev code = true → freeStream p = some n →
      (portLinks code)[p.dealt % (portLinks code).length]? = some m → linkTakes s.dev m = true →
      ∃ t, exec (.flitForward l) s = .next t ∧ (portOf t.dev code).egress = [] ∧
        (let c' := if u.own = none then c else c.take 32 ++ toLE 8 s.dev.otime.count.toNat ++ c.drop 40
         let f := mkFlit u.vc n (linkOf s.dev m).tx.toNat true true c'
         t.dev.out = s.dev.out ++ [.flit m f] ∧ (linkOf t.dev m).replay = (linkOf s.dev m).replay ++ [⟨f, u.id, u.head⟩] ∧
           (linkOf t.dev m).tx = (linkOf s.dev m).tx + 1) ∧
        ∀ o, u.own = some o →
          let key := 2 * fld u.head 0 1 + o.dir
          let l := sendOf (ctxOf s.dev u.ctx) o.dir
          look 0 (ctxOf t.dev u.ctx).sent key = (look 0 (ctxOf s.dev u.ctx).sent key + 1) % 2 ^ 32 ∧
            sendOf (ctxOf t.dev u.ctx) o.dir = if o.ends then EntryDone s.dev u.ctx o.dir l else { l with unit := l.unit + o.units })

/-- A train that is being received at the ring port of a direction (R296). -/
def Receives (d : Dev) (port stream : Nat) (r : RxTrain) : Prop := rxOf d (ringPort d port) stream = some r ∧ r.discard = false

/-- What is left of the trains received on a STREAM once one more unit of `size` bytes of the oldest is done (R285, R290, R299). -/
def UnitDone (s t : State) (port stream size : Nat) (r : RxTrain) : Prop :=
  let code := ringPort s.dev port
  rxsAt t.dev code stream = (if r.finished = true ∧ r.units + 1 = fld r.header 20 2 then []
    else [{ r with payload := r.payload.drop size, units := r.units + 1 }]) ++ (rxsAt s.dev code stream).drop 1

/-- The ring receives (R284, R289, R293, R296 to R300, R302, R315): a flit with a bad CRC is answered by a NAK and nothing of it is taken; one
out of order is dropped; the first flit of a train that ends here and passes R293 opens it and its origin's SEQ moves on. A weights unit
lands as one item of the region that its landing entry names, committed; a gradient chunk at its home is the sum of what came and the local
contribution, with its flags. -/
def Obligations.RingReceiving : Prop :=
  ∀ (s : State), Sound s.dev → s.dev.upset = [] → s.dev.poison = [] → sleep s.dev = 0 → (∀ y, harvestDue s.dev y = false) →
    (∀ l f, l < 19 → linkAlive s.dev l = true → flitGood f = false → ∃ t g, exec (.flitReceive l f) s = .next t ∧
      t.dev.out = s.dev.out ++ [.flit l g] ∧ flitVc g = 3 ∧ (linkOf t.dev l).dropping = true ∧ (linkOf t.dev l).rx = (linkOf s.dev l).rx ∧
      t.dev.ports = s.dev.ports ∧ t.dev.mem = s.dev.mem) ∧
    (∀ l f, l < 19 → linkActive s.dev l = true → flitGood f = true →
      (flitSeq f ≠ (if (linkOf s.dev l).rxAny then ((linkOf s.dev l).rx + 1).toNat else 0) → exec (.flitReceive l f) s = .next s) ∧
      (flitSeq f = (if (linkOf s.dev l).rxAny then ((linkOf s.dev l).rx + 1).toNat else 0) → flitVc f < 2 → flitFirst f = true → flitLast f = false →
        ringUp s.dev = true →
        let code := portOfLink l
        let h := (flitPayload f).take 64
        (code = ringPort s.dev 0 ∨ code = ringPort s.dev 1) → portUp s.dev code = true → rxsAt s.dev code (flitStream f) = [] →
        (portOf s.dev code).early = [] → (portOf s.dev code).merged = (portLinks code).idxOf l →
        64 ≤ (flitPayload f).length → headerCheck s.dev h = 0 → hopsOf h = og s.dev 0x3000 2 - 1 → fld h 24 4 + 1 < 2 ^ 32 →
        ∃ t, exec (.flitReceive l f) s = .next t ∧
          rxsAt t.dev code (flitStream f) = [⟨h, (flitPayload f).drop 64, fld h 1 1, false, false, 0, none, []⟩] ∧
          look 0 (ctxOf t.dev (fld h 1 1)).expected (seqKey h (og s.dev 0x3000 2)) = fld h 24 4 + 1 ∧
          (linkOf t.dev l).rx = BitVec.ofNat 12 (flitSeq f) ∧ t.dev.mem = s.dev.mem)) ∧
    (∀ port stream r, port < 2 → Receives s.dev port stream r → r.landed = [] → (ctxOf s.dev r.ctx).state = .running → r.units < fld r.header 20 2 →
      let h := r.header
      let u := fld h 16 4 + r.units
      let es := (landEntries (ctxOf s.dev r.ctx)).filter fun e => landMatch e h u
      (fld h 0 1 = 1 → unitBytes 1 (fld h 2 1) ≤ r.payload.length →
        (∀ e c key, es = [e] → landingOf s.dev r.ctx e u (unitBytes 1 (fld h 2 1)) = .ready c key → hubFlagged s.dev 4 = false →
          fabricFlagged s.dev (c / 8) 4 = false → fld e 10 2 = 0xFFFF →
          let g := regionOf s.dev (c / 8) key
          let a := spKey c (g.base + g.tail * g.item)
          let n := unitBytes 1 (fld h 2 1)
          ∃ t, exec (.unitLand port stream) s = .next t ∧ UnitDone s t port stream n r ∧
            regionOf t.dev (c / 8) key = { g with tail := (g.tail + 1) % g.cap, count := g.count + 1, opened := false } ∧
            (∀ j, j < n → readByte t.dev.mem (a + j) = r.payload.getD j 0) ∧
            ∀ x, ¬ (a ≤ x ∧ x < a + n) → readByte t.dev.mem x = readByte s.dev.mem x) ∧
        (es = [] → ∃ t, exec (.unitLand port stream) s = .next t ∧ UnitDone s t port stream (unitBytes 1 (fld h 2 1)) r ∧ t.dev.mem = s.dev.mem)) ∧
      (∀ e c kr p, fld h 0 1 = 2 → 1024 ≤ r.payload.length → r.goesOn = none → es.head? = some e → fld e 10 2 = 0xFFFF → c.length = 1024 →
        let cva := fld e 32 8 + fld h 10 2 * fld e 40 8 + 1024 * u
        let rva := fld e 48 8 + 1024 * u
        UnitReads s.dev r.ctx cva c → inHbm s.dev r.ctx cva 1024 false = true → inHbm s.dev r.ctx rva 1024 true = true →
        PageByte s.dev r.ctx rva kr p → rva % 65536 ≤ 64512 → rva + 1024 ≤ 2 ^ 52 → hbmWaits s.dev r.ctx 2 cva 1024 = false →
        hbmWaits s.dev r.ctx 2 rva 1024 = false →
        ∃ t, exec (.gradientAccumulate port stream) s = .next t ∧ UnitDone s t port stream 1024 r ∧
          (∀ j, j < 1024 → readByte t.dev.mem (kr + j) = (addChunks (r.payload.take 1024) c).1.getD j 0) ∧
          (∀ x, ¬ (kr ≤ x ∧ x < kr + 1024) → readByte t.dev.mem x = readByte s.dev.mem x) ∧
          og t.dev 0x3026 (r.ctx + 1) = og s.dev 0x3026 (r.ctx + 1) ||| (addChunks (r.payload.take 1024) c).2.toNat))

/-! ### Links -/

/-- Training (R311 to R314, R319): each state's success leads to the next with its retries at 0, ALIGN choosing lanes among the lit ones with the
lowest error rates; IDENT sends the own block, which echoes what the partner's block names, and completes where the partner echoes the own serial
number, or leads to MISWIRED where a punnet port has the wrong partner; a timeout enters the state again within its limits, else the attempt
fails, and the third failure in a row is ABSENT; QUIET's end, light on an absent link and ENABLE begin a new attempt; RETRAIN and DISABLE leave
any state for QUIET and OFF. -/
def Obligations.LinkTraining : Prop :=
  ∀ (s : State) (l : Nat), Sound s.dev → l < 19 →
    let k := linkOf s.dev l
    let Goes (o : Instr) (k' : Link) : Prop := ∃ t, exec o s = .next t ∧ linkOf t.dev l = k' ∧ ∀ m, m ≠ l → linkOf t.dev m = linkOf s.dev m
    (∀ lit, k.state = .detect → enoughLight l lit = true → Goes (.detect l lit) { k with state := .lock, retries := 0, lit := lit, now := lit }) ∧
    (k.state = .lock → Goes (.lock l) { k with state := .align, retries := 0 }) ∧
    (∀ errs, k.state = .align → ∃ used, Goes (.align l errs) { k with state := .fecUp, retries := 0, used := used } ∧
      (∀ i : Nat, used.getLsbD i = true → i ∈ lanesOf l) ∧
      (15 ≤ l ∨ 16 ≤ lanesLit l k.now → ∀ i : Nat, used.getLsbD i = true → k.now.getLsbD i = true) ∧
      (l < 15 → lanesLit l used = 16 ∧ (lanesLit l k.now ≤ 16 → ∀ i ∈ lanesOf l, k.now.getLsbD i = true → used.getLsbD i = true)) ∧
      (15 ≤ l → k.skipWorn = false → 2 ≤ lanesLit l k.now → lanesLit l used = if lanesLit l k.now = 4 then 4 else 2) ∧
      (l < 15 → k.skipWorn = false → 16 ≤ lanesLit l k.now → ∀ i j, i ∈ lanesOf l → j ∈ lanesOf l → used.getLsbD i = true →
        k.now.getLsbD j = true → used.getLsbD j = false → errs.getD i 0 ≤ errs.getD j 0)) ∧
    (k.state = .fecUp → ∃ t b, exec (.fecUp l) s = .next t ∧ linkOf t.dev l = { k with state := .ident, retries := 0 } ∧
      (∀ m, m ≠ l → linkOf t.dev m = linkOf s.dev m) ∧ t.dev.out = s.dev.out ++ [.flit l b] ∧ identGood b = true ∧
      fld b 0 8 = Config.serial.toNat ∧ fld b 26 1 = portOfLink l) ∧
    (∀ b, identGood b = false → exec (.ident l b) s = .next s) ∧
    (∀ b, k.state = .ident → identGood b = true → ∃ t b', exec (.ident l b) s = .next t ∧ (linkOf t.dev l).partner = b.take 64 ∧
      OutItem.flit l b' ∈ t.dev.out ∧ identGood b' = true ∧ fld b' 0 8 = Config.serial.toNat ∧ fld b' 8 8 = fld b 0 8 ∧
      (fld b 8 8 ≠ Config.serial.toNat → (linkOf t.dev l).state = .ident) ∧
      (fld b 8 8 = Config.serial.toNat → (linkOf t.dev l).state = (if miswired s.dev l b then .miswired else .active) ∧ (linkOf t.dev l).tx = 0 ∧
        (linkOf t.dev l).rxAny = false ∧ (linkOf t.dev l).replay = [] ∧ (linkOf t.dev l).fails = 0)) ∧
    (∀ ms n, (k.state, ms, n) ∈ [(LinkState.detect, 1, 15), (.lock, 5, 2), (.align, 2, 2), (.fecUp, 1, 2), (.ident, 1, 2)] →
      let lost : Prop := n ≤ k.retries ∨ 16 ≤ k.spent + ms ∨ 12800000 ≤ (s.dev.otime.count - k.began).toNat
      (¬ lost → Goes (.trainingTimeout l) { k with retries := k.retries + 1, spent := k.spent + ms }) ∧
      (lost → ∃ t, exec (.trainingTimeout l) s = .next t ∧ (linkOf t.dev l).fails = k.fails + 1 ∧
        (linkOf t.dev l).state = if 2 ≤ k.fails then .absent else .quiet)) ∧
    (let fresh : Link := { k with state := .detect, retries := 0, spent := 0, began := s.dev.otime.count, partner := [], used := 0 }
     (k.state = .quiet → Goes (.quietEnd l) fresh) ∧ (k.state = .absent → Goes (.absentLight l) { fresh with fails := 0 })) ∧
    (∀ src e, Ready s.dev → e < 20 → l ∈ linksAt s.dev e →
      let Does (o : Instr) (p : Link → Prop) : Prop := ∃ t, exec o s = .next t ∧ WriteAnswered s t src (0x3100 + e) 14 0 ∧ p (linkOf t.dev l)
      (Does (.retrain src e) fun k' => k'.state = .quiet ∧ k'.skipWorn = true) ∧
      (Does (.disable src e) fun k' => k'.state = .off) ∧
      (k.state = .off → Does (.enable src e) fun k' => k'.state = .detect) ∧
      (k.state ≠ .off → Does (.enable src e) fun k' => k' = k))

/-- Link control and losses (R310, R315 to R318): a link that is alive sends a sealed flit of VC 3; one that arrives takes the acknowledged flits
off the replay, and a NAK sends what is left again; no such flit for 20 µs, lost lock, too little light or a dark fibre take the link down: it
is QUIET; too little light fails a training attempt, and less of it is remembered; a lane in use whose errors exceed the limit is worn. -/
def Obligations.LinkLosses : Prop :=
  ∀ (s : State) (l : Nat), Sound s.dev → l < 19 →
    let k := linkOf s.dev l
    let Down (o : Instr) : Prop := ∃ t, exec o s = .next t ∧ (linkOf t.dev l).state = .quiet ∧ (linkOf t.dev l).replay = [] ∧ (linkOf t.dev l).fails = 0
    (linkAlive s.dev l = true →
      (∃ t f, exec (.linkControlSend l) s = .next t ∧ t.dev.out = s.dev.out ++ [.flit l f] ∧ flitVc f = 3 ∧ flitGood f = true ∧
        t.dev.mem = s.dev.mem) ∧
      Down (.linkControlTimeout l) ∧ Down (.lockLoss l) ∧
      (∀ lit, tooDark k l lit = true → Down (.lightLoss l lit)) ∧
      (∀ f, flitGood f = true → flitVc f = 3 →
        let w := fld (f.drop 4) 0 4
        (w.testBit 13 = false → ∃ t, exec (.linkControlReceive l f) s = .next t ∧ t.dev.out = s.dev.out ∧
          (linkOf t.dev l).replay = (if w.testBit 12 then afterAck k.replay (w % 4096) else k.replay) ∧
          (linkOf t.dev (leadLink (portOfLink l))).credit2 = (linkOf s.dev (leadLink (portOfLink l))).credit2 + fld (f.drop 4) 4 4) ∧
        (w.testBit 13 = true → k.nakFor ≠ some (w % 8192) → ∃ t, exec (.linkControlReceive l f) s = .next t ∧
          t.dev.out = s.dev.out ++ (if w.testBit 12 then afterAck k.replay (w % 4096) else k.replay).map fun h => OutItem.flit l h.flit) ∧
        (w.testBit 13 = true → k.nakFor = some (w % 8192) → 3 ≤ k.nakCount → Down (.linkControlReceive l f)))) ∧
    (linkAlive s.dev l = false → exec (.linkControlTimeout l) s = .next s ∧ exec (.lockLoss l) s = .next s ∧ exec (.linkControlSend l) s = .next s) ∧
    (∀ lit, tooDark k l lit = false → ∃ t, exec (.lightLoss l lit) s = .next t ∧ linkOf t.dev l = { k with now := lit } ∧
      ∀ m, m ≠ l → linkOf t.dev m = linkOf s.dev m) ∧
    (∀ lit, tooDark k l lit = true → k.state ∈ [LinkState.lock, .align, .fecUp, .ident] → ∃ t, exec (.lightLoss l lit) s = .next t ∧
      (linkOf t.dev l).fails = k.fails + 1 ∧ (linkOf t.dev l).state = if 2 ≤ k.fails then .absent else .quiet) ∧
    (∀ lit, l < 15 → (tooDark k l lit = true ↔ 2 < ((List.range 18).filter fun i => k.lit.getLsbD i && !lit.getLsbD i).length)) ∧
    (∀ e lane errs, e < 20 → lane < 18 → laneLink s.dev e lane = some l → linkAlive s.dev l = true → k.used.getLsbD lane = true →
      (og s.dev 0x3010 2 < errs → (og s.dev (0x3100 + e) 8).testBit lane = false → ∃ t, exec (.laneWearWindow e lane errs) s = .next t ∧
        og t.dev (0x3100 + e) 8 = og s.dev (0x3100 + e) 8 ||| 2 ^ lane ∧ LogsWindfall t.dev 0x0013 ∧ ∀ m, linkOf t.dev m = linkOf s.dev m) ∧
      (errs ≤ og s.dev 0x3010 2 → exec (.laneWearWindow e lane errs) s = .next s)) ∧
    (∀ fibre e, fibre < 12 → s.dev.graft.fibres.getLsbD fibre = true → e ∈ fedBy s.dev fibre → l ∈ linksAt s.dev e → linkAlive s.dev l = true →
      Down (.fibrePowerLoss fibre)) ∧
    ∀ fibre, fibre < 12 → s.dev.graft.fibres.getLsbD fibre = false → exec (.fibrePowerLoss fibre) s = .next s

/-! ### Routing, freezing and orchard time -/

/-- Routing and freezing (R322, R323, R334 to R337, R340): ROUTE_REQ writes the entries it carries and no others; a routed train leaves through
the port that its entry leads to with its hop count one up, and is a ROUTE_LOST where none does or its hops are used up; a freeze message for a context of this
package freezes it and stops its runs, and one that comes again is logged; a freeze is complete once no train of the context is held; WF_ACK
releases FAULT_N. -/
def Obligations.RoutingAndFreezing : Prop :=
  ∀ (s : State), Sound s.dev →
    (∀ src data, Ready s.dev → routeCheck data = 0 → ∃ t, exec (.routeReq src data) s = .next t ∧ WriteAnswered s t src 0x3060 0 0 ∧
      ∀ i, routeOf t.dev i = if fld data 0 2 ≤ i ∧ i < fld data 0 2 + fld data 2 2 then fld data (8 + 2 * (i - fld data 0 2)) 2 % 256
        else routeOf s.dev i) ∧
    (∀ l train, l = 19 ∨ l < 19 ∧ linkActive s.dev l = true → isRouted train = true → routeOf s.dev (fld train 4 2) % 16 ≠ 0 →
      (∀ p, routePort s.dev train = some p → fld train 0 1 ≠ 0x12 → ∃ t u, exec (.routedTrain l train) s = .next t ∧
        (portOf t.dev p).egress = (portOf s.dev p).egress ++ [u] ∧ u.vc = 2 ∧ u.chunks.flatten = setByte train 8 (fld train 8 1 + 1)) ∧
      (routePort s.dev train = none ∨ 15 ≤ fld train 8 1 → ∃ t, exec (.routedTrain l train) s = .next t ∧ LogsWindfall t.dev 0x0014)) ∧
    (∀ l train x, l < 19 → linkActive s.dev l = true → fld train 0 1 = 0x12 → routeOf s.dev (fld train 4 2) % 16 = 0 → x = fld train 9 1 → x < 64 →
      (canFreeze s.dev x = true → ∃ t, exec (.freezeMessage l train) s = .next t ∧ (ctxOf t.dev x).state = .frozen ∧ (ctxOf t.dev x).freezing = true ∧
        (∃ w ∈ t.dev.faults.wf, w.toNat % 65536 = fld train 16 2 ∧ w.toNat.testBit 23 = true) ∧
        ∀ c, c < 256 → holds s.dev x (c / 8) = true → (coreOf s.dev c).inst ≠ none → (coreOf t.dev c).held = true) ∧
      ((ctxOf s.dev x).state = .frozen → ∃ t, exec (.freezeMessage l train) s = .next t ∧
        (∃ w ∈ t.dev.faults.wf, w.toNat % 65536 = fld train 16 2 ∧ w.toNat.testBit 23 = true) ∧ (∀ y, ctxOf t.dev y = ctxOf s.dev y) ∧
        t.dev.ports = s.dev.ports)) ∧
    (∀ x, x < 64 → (ctxOf s.dev x).state = .frozen → ringTrains s.dev x = 0 → ∃ t, exec (.freezeComplete x) s = .next t ∧
      ctxOf t.dev x = { ctxOf s.dev x with freezing := false } ∧ ∀ y, y ≠ x → ctxOf t.dev y = ctxOf s.dev y) ∧
    (∀ src, Ready s.dev → ∃ t, exec (.wfAck src [1]) s = .next t ∧ WriteAnswered s t src 0x8000 5 0 ∧ faultNLow t.dev = false ∧
      t.dev.faults.wf = s.dev.faults.wf)

/-- Orchard time (R324 to R327, R329): a time train carries the count, the hops, the state and the echo of its link; a follower that acquires
takes from its one partner the offset that the four stamps give, stepping where it is large and forward or has not stepped back, else
slewing, and is CONVERGED at the eighth small one in a row; a replayed train is not used; the master's role and TIME_SET take effect. -/
def Obligations.OrchardTime : Prop :=
  ∀ (s : State) (l : Nat), Sound s.dev → l < 19 →
    let o := s.dev.otime
    let k := linkOf s.dev l
    (linkTakes s.dev l = true → 0 < (linkOf s.dev (leadLink (portOfLink l))).credit2 → (portOf s.dev (portOfLink l)).egress = [] →
      (∀ dir, flagged s.dev 3 4 dir 1 = false) → ∃ t f, exec (.timeTrainSend l) s = .next t ∧
      t.dev.out = s.dev.out ++ [.flit l f] ∧ flitVc f = 2 ∧ flitFirst f = true ∧ flitLast f = true ∧
      (let h := flitPayload f
       h.length = 64 ∧ fld h 0 1 = 0x10 ∧ fld h 4 2 = o.hops % 65536 ∧ fld h 16 8 = o.count.toNat ∧ fld h 24 8 = k.lastTx.toNat ∧
         fld h 32 8 = k.lastRx.toNat) ∧ t.dev.otime = o) ∧
    (∀ h t4, exec (.timeTrainReceive l h t4 true) s = .next s) ∧
    (∀ h (t4 : Word) (off : Int), linkActive s.dev l = true → (∀ m, m ≠ l → linkActive s.dev m = false) → o.state = 1 → o.upstream = some l →
      fld h 0 1 = 0x10 → t4 ≤ o.count → fld h 24 8 ≠ 0 →
      2 * off = ((fld h 32 8 : Int) - fld h 24 8) - ((t4.toNat : Int) - fld h 16 8) →
      ∃ t, exec (.timeTrainReceive l h t4 false) s = .next t ∧
        (linkOf t.dev l).lastTx = BitVec.ofNat 64 (fld h 16 8) ∧ (linkOf t.dev l).lastRx = t4 ∧
        t.dev.otime.hops = min 0xFFFF (fld h 4 2 + 1) ∧ t.dev.otime.lastOffset = off ∧
        (if 64 < off.natAbs ∧ (0 < off ∨ o.stepped = false) then
          t.dev.otime.count = o.count + BitVec.ofInt 64 off ∧ t.dev.otime.stepped = true ∧ t.dev.otime.slew = 0
        else t.dev.otime.count = o.count ∧ t.dev.otime.slew = off) ∧
        (t.dev.otime.state = if off.natAbs ≤ 4 ∧ 7 ≤ o.goodRun then 2 else 1)) ∧
    (∀ src data, Ready s.dev → data.length = 8 → og s.dev 0x3050 1 = 1 → (∀ m, m < 19 → linkActive s.dev m = false) →
      ∃ t, exec (.timeSet src data) s = .next t ∧ WriteAnswered s t src 0x3050 7 0 ∧ t.dev.otime = { o with count := BitVec.ofNat 64 (leNat data) }) ∧
    (∀ src, Ready s.dev →
      (∃ t, exec (.timeRole src [1]) s = .next t ∧ WriteAnswered s t src 0x3050 1 0 ∧ og t.dev 0x3050 1 = 1 ∧ t.dev.otime.state = 4 ∧
        t.dev.otime.hops = 0 ∧ t.dev.otime.upstream = none ∧ t.dev.otime.count = o.count) ∧
      (o.state = 4 → (∀ m, m < 19 → linkActive s.dev m = false) → ∃ t, exec (.timeRole src [0]) s = .next t ∧ WriteAnswered s t src 0x3050 1 0 ∧
        t.dev.otime.state = 0 ∧ t.dev.otime.hops = 0xFFFF ∧ t.dev.otime.upstream = none))

/-! ### Spares, temperatures, power -/

/-- GRAFT_REQ and RECOVERY (R107, R341, R342): in a recovery window an accepted graft counts and retires what failed and puts the spare in its place: a
column is remembered for its engine, a spare core or cluster comes into service empty, a spare engine begins an attempt on its links, a
spare fibre of the same group comes into use. A recovery window opens while no other context runs, and closes at any time. -/
def Obligations.SpareGrafts : Prop :=
  ∀ (s : State) (src : Source), Sound s.dev → Ready s.dev →
    (∀ data, data.length = 8 → graftCheck s.dev data = 0 →
      let q := parseGraft data
      let Does (p : State → Prop) : Prop := ∃ t, exec (.graftReq src data) s = .next t ∧ WriteAnswered s t src 0x2010 2 0 ∧
        t.dev.graft.retired = s.dev.graft.retired + 1 ∧ p t
      (q.kind = 1 → (failedColumns s.dev.graft (physEngineNo s.dev (4 * q.core + q.e))).length < 2 → Does fun t =>
        (physEngineNo s.dev (4 * q.core + q.e), q.column) ∈ t.dev.graft.badColumns ∧ ∀ c, physCore t.dev c = physCore s.dev c) ∧
      (q.kind = 2 → ∃ p, spareCore s.dev q.cluster = some p ∧ Does fun t => physCore t.dev q.core = p ∧
        physCoreNo s.dev q.core ∈ t.dev.graft.badCores ∧ coreOf t.dev q.core = Core.reset ∧
        ∀ a, a < 0x600000 → readByte t.dev.mem (spKey q.core a) = 0) ∧
      (q.kind = 3 → ∃ p, (freeClusters s.dev q.a).head? = some p ∧ Does fun t => physCluster t.dev q.cluster = p ∧
        physClusterNo s.dev q.cluster ∈ t.dev.graft.badClusters ∧ ClusterEmpty t.dev q.cluster) ∧
      (q.kind = 4 → ∃ p, (freeOptics s.dev (some q.a)).head? = some p ∧ Does fun t => physOptic t.dev q.a = p ∧
        physOptic s.dev q.a ∈ t.dev.graft.badOptics ∧ ∀ l ∈ linksOf q.a, (linkOf t.dev l).state = .detect) ∧
      (q.kind = 5 → ∃ f, f / 3 = q.a / 3 ∧ s.dev.graft.fibres.getLsbD f = false ∧ Does fun t => t.dev.graft.fibres.getLsbD f = true ∧
        t.dev.graft.fibres.getLsbD q.a = false ∧ q.a ∈ t.dev.graft.badFibres)) ∧
    (∀ v : Byte, v = 0 ∨ (v = 1 ∧ ∀ e ∈ s.dev.ctxs, e.1 ≠ 0 → e.2.state ≠ .running ∧ e.2.state ≠ .preempting) →
      ∃ t, exec (.recovery src [v]) s = .next t ∧ WriteAnswered s t src 0x2010 1 0 ∧ og t.dev 0x2010 1 = v.toNat)

/-- Temperatures and P-states (R330, R380, R382 to R388): a sample stores every temperature; a monitor at its trip limit for the second sample
in a row drives THERM_N low and sends every die to the slowest throttle P-state, and THERM_N is released when none is at its limit; a throttle
condition holds at its second sample in a row; a step slows a die whose condition holds, and a recovery speeds it up where R386 allows; P_REQUEST and the end of
a change settle the effective P-state at the slower of request and throttle; a PLL that loses lock is a package windfall. -/
def Obligations.Throttling : Prop :=
  ∀ (s : State), Sound s.dev →
    (∀ temps supplies, (∀ m : Nat, -2147483648 ≤ temps.getD m 0 ∧ temps.getD m 0 < 2147483648) →
      ∃ t, exec (.monitorSample temps supplies) s = .next t ∧ (∀ m, m < 13 → tempOf t.dev m = temps.getD m 0) ∧
        (∀ m, m < 13 → tripLimit s.dev m ≤ temps.getD m 0 → look 0 s.dev.power.tripRun m = 1 → t.dev.faults.thermLow = true ∧
          ∀ die, die < 4 → 2 ≤ throttleOf t.dev die) ∧
        ((∀ m, m < 13 → temps.getD m 0 < tripLimit s.dev m) → t.dev.faults.thermLow = false) ∧
        (∀ die, die < 4 → look false t.dev.power.holding die =
          ((hotBy t.dev die 0 && look false s.dev.power.hotOnce (2 * die)) || (hotBy t.dev die 1 && look false s.dev.power.hotOnce (2 * die + 1))))) ∧
    (∀ die, die < 4 →
      let th := throttleOf s.dev die
      (look false s.dev.power.holding die = true → th < 2 → ∃ t, exec (.throttleStep die) s = .next t ∧ throttleOf t.dev die = th + 1 ∧
        look false t.dev.power.changing die = decide (max (og s.dev 0x6020 (die + 1)) (th + 1) ≠ look 0 s.dev.power.effective die) ∧
        ∀ i, i ≠ die → throttleOf t.dev i = throttleOf s.dev i) ∧
      (look false s.dev.power.holding die = false ∨ 2 ≤ th → exec (.throttleStep die) s = .next s) ∧
      (mayRecover s.dev die = true → ∃ t, exec (.throttleRecover die) s = .next t ∧ throttleOf t.dev die = th - 1 ∧
        look false t.dev.power.changing die = decide (max (og s.dev 0x6020 (die + 1)) (th - 1) ≠ look 0 s.dev.power.effective die)) ∧
      (mayRecover s.dev die = false → exec (.throttleRecover die) s = .next s) ∧
      (∀ src (v : Byte), Ready s.dev → v.toNat ≤ 2 → ∃ t, exec (.pRequest src (die + 1) [v]) s = .next t ∧
        WriteAnswered s t src 0x6020 (die + 1) 0 ∧ og t.dev 0x6020 (die + 1) = v.toNat ∧
        look false t.dev.power.changing die = decide (max v.toNat th ≠ look 0 s.dev.power.effective die)) ∧
      (look false s.dev.power.changing die = true → ∃ t, exec (.pStateChangeDone die) s = .next t ∧
        look 0 t.dev.power.effective die = max (og s.dev 0x6020 (die + 1)) th ∧ look false t.dev.power.changing die = false ∧
        ∀ i, i ≠ die → look 0 t.dev.power.effective i = look 0 s.dev.power.effective i) ∧
      (look false s.dev.power.changing die = false → exec (.pStateChangeDone die) s = .next s)) ∧
    (∀ die, die < 5 → ∃ t, exec (.pllLockLoss die) s = .next t ∧ min (og s.dev 0x8000 1 + 1) (2 ^ 32 - 1) ≤ og t.dev 0x8000 1 ∧
      ∀ x, x < 64 → canFreeze s.dev x = true → holdsAny s.dev x = true → (ctxOf t.dev x).state = .frozen)

/-- Nothing fails from step 3 on: locked PLLs, trained HBM, no failed unit, fibres within their limits (R394, R395, R419). -/
def UnitsGood (env : StartEnv) : Prop :=
  env.pll = true ∧ env.hbm = true ∧ env.clusters = [] ∧ env.cores = [] ∧ env.columns = [] ∧ env.optics = [] ∧
    ∀ f : Nat, f < 12 → 210 ≤ env.fibres.getD f 0 ∧ env.fibres.getD f 0 ≤ 240

/-- Power states (R389 to R391, R418): an entry begins where the package is idle, ready and allowed to, and completes into the state; S1 and S2
lose nothing, S3 loses what the compute dies hold; a wake leads to S0, from S4 through the start-up steps on what they meet, which is free (log
entry 154), with every link in a new attempt and ctx 0 IDLE where they find nothing failed; a die that shuts
down loses its own state and no other die's, and drives THERM_N low. -/
def Obligations.PowerStates : Prop :=
  ∀ (s : State), Sound s.dev →
    let p := s.dev.power
    (∀ level, 1 ≤ level → level ≤ 4 → sleep s.dev < level → p.waking = false → og s.dev 0x1000 7 = 1 → isIdle s.dev = true →
      stateEntry s.dev level = true → stateAllowed s.dev level = true →
      exec (.powerStateEntry level) s = .next { s with dev := { s.dev with power := { p with entering := some level } } }) ∧
    (∀ level, level = 0 ∨ 4 < level ∨ isIdle s.dev = false ∨ stateAllowed s.dev level = false → exec (.powerStateEntry level) s = .next s) ∧
    (∀ level, p.entering = some level → p.waking = false → ∃ t, exec .powerStateEntryComplete s = .next t ∧ t.dev.power.state = level ∧
      t.dev.power.entering = none ∧
      (level ≤ 2 → t = { s with dev := { s.dev with power := { p with state := level, entering := none } } }) ∧
      (level = 3 → (∀ c, coreOf t.dev c = Core.reset) ∧ (∀ a, a < 2 ^ 40 → readByte t.dev.mem a = 0) ∧
        (∀ a, 2 ^ 40 ≤ a → readByte t.dev.mem a = readByte s.dev.mem a) ∧ (∀ x, ctxOf t.dev x = ctxOf s.dev x) ∧ t.dev.links = s.dev.links) ∧
      (level = 4 → (∀ x, ctxOf t.dev x = Ctx.reset) ∧ (∀ l, linkOf t.dev l = Link.reset) ∧ (∀ x va, pageAt t.dev x va = none) ∧
        ∀ a, 2 ^ 44 ≤ a → readByte t.dev.mem a = readByte s.dev.mem a)) ∧
    (p.waking = true → s.dev.host.held = [] →
      (p.state ≠ 4 → exec .wakeComplete s =
        .next { s with dev := { s.dev with power := { p with state := 0, entering := none, waking := false } } }) ∧
      (p.state = 4 → ∃ (t : State) (up : StartEnv → Dev), exec .wakeComplete s = .next t ∧ t.dev = up (Config.wakeEnv s.dev.free) ∧ ∀ env,
        (up env).power.state = 0 ∧ (up env).power.waking = false ∧ (UnitsGood env → og (up env) 0x1000 7 = 1 ∧
          (∀ l, l < 19 → (linkOf (up env) l).state = .detect) ∧ (ctxOf (up env) 0).state = .idle))) ∧
    (∀ die, die < 4 → ∃ t, exec (.dieShutdown die) s = .next t ∧ thermNLow t.dev = true ∧
      (∀ c, c / 64 = die → coreOf t.dev c = Core.reset ∧ ∀ a, a < 0x600000 → readByte t.dev.mem (spKey c a) = 0) ∧
      (∀ c, c / 64 ≠ die → coreOf t.dev c = coreOf s.dev c) ∧ ∀ x, ctxOf t.dev x = ctxOf s.dev x) ∧
    (∃ t, exec (.dieShutdown 4) s = .next t ∧ thermNLow t.dev = true ∧ (∀ l, (linkOf t.dev l).state = .off) ∧ ∀ c, coreOf t.dev c = coreOf s.dev c)

/-- An image of the firmware verifies (R393). -/
def FirmwareGood (d : Dev) (env : StartEnv) : Prop :=
  (d.mgmt.slot0 = true ∧ env.fw0 = true) ∨ (d.mgmt.slot1 = true ∧ env.fw1 = true)

/-- Start-up and supplies (R393 to R396, R413): with both supplies and nothing failed the package is READY, every link begins an attempt and ctx 0
is IDLE; a step that fails leaves PKG_STATE FAILED with the step's number; a dip freezes the contexts that hold clusters; the loss of VIN48
loses the data path and keeps the journal, that of VAUX12 loses all but the meter, the stored defaults and memory outside the package; each
supply's return starts again from its step. -/
def Obligations.StartUp : Prop :=
  ∀ (s : State) (env : StartEnv), Sound s.dev →
    let Up (o : Instr) : Prop := ∃ t, exec o s = .next t ∧ og t.dev 0x1000 7 = 1 ∧ og t.dev 0x603F 1 = 0x18 ∧ (ctxOf t.dev 0).state = .idle ∧
      (∀ l, l < 19 → (linkOf t.dev l).state = .detect) ∧ t.dev.vm.tierFrames = min env.tierFrames 1907348 ∧ t.meter = s.meter
    let Fails (o : Instr) (step : Nat) : Prop := ∃ t, exec o s = .next t ∧ og t.dev 0x1000 7 = 2 ∧ og t.dev 0x603F 1 = 0x20 + step
    (s.dev.power.vin = false → s.dev.power.vaux = false →
      (FirmwareGood s.dev env → UnitsGood env → Up (.powerUp env)) ∧ (env.fw0 = false → env.fw1 = false → Fails (.powerUp env) 2) ∧
      (env.fw0 = true → s.dev.mgmt.slot0 = true → (env.pll = false → Fails (.powerUp env) 3) ∧
        (env.pll = true → env.hbm = false → Fails (.powerUp env) 4))) ∧
    (s.dev.power.vin = true → og s.dev 0x1000 7 = 1 → ∀ x, x < 64 → canFreeze s.dev x = true → holdsAny s.dev x = true →
      ∃ t, exec .vin48Dip s = .next t ∧ (ctxOf t.dev x).state = .frozen) ∧
    (s.dev.power.vin = true → s.dev.power.vaux = true → ∃ t, exec .vin48Loss s = .next t ∧ t.dev.power.vin = false ∧ t.dev.power.state = 0 ∧
      (∀ x, ctxOf t.dev x = Ctx.reset) ∧ (∀ l, linkOf t.dev l = Link.reset) ∧ (∀ c, coreOf t.dev c = Core.reset) ∧
      t.dev.mgmt.journal = s.dev.mgmt.journal ∧ t.meter = s.meter ∧ ∀ a, 2 ^ 44 ≤ a → readByte t.dev.mem a = readByte s.dev.mem a) ∧
    (s.dev.power.vin = false → s.dev.power.vaux = true → romOnly s.dev = false →
      UnitsGood env → Up (.vin48Restored env)) ∧
    (s.dev.power.vaux = true → ∃ t, exec .vaux12Loss s = .next t ∧ t.dev.power.vaux = false ∧ t.dev.power.vin = s.dev.power.vin ∧
      t.dev.mgmt.journal = [] ∧ t.dev.mgmt.stored = s.dev.mgmt.stored ∧ (∀ x, ctxOf t.dev x = Ctx.reset) ∧ t.dev.obj = [] ∧ t.meter = s.meter ∧
      ∀ a, 2 ^ 44 ≤ a → readByte t.dev.mem a = readByte s.dev.mem a) ∧
    (s.dev.power.vaux = false → s.dev.power.vin = true → FirmwareGood s.dev env → UnitsGood env → Up (.vaux12Restored env))

/-! ### The host -/

/-- The queue registers (R345 to R351): SQ_TAIL, CQ_HEAD, CQ_BASE and SQ_FLUSH, each on its own context only; a flush drops what is not taken;
a WRITE item of one slot lays its bytes in the context's memory; a record goes to its ring in host memory and signals its vector. -/
def Obligations.HostQueues : Prop :=
  ∀ (s : State) (x : Nat), Sound s.dev → x < 64 →
    let q := sqOf s.dev x
    let others (t : State) : Prop := ∀ y, y ≠ x → sqOf t.dev y = sqOf s.dev y
    (hostUp s.dev = true →
      (∀ v : W32, ∃ t, exec (.sqTail x v []) s = .next t ∧ sqOf t.dev x = { q with tail := v.setWidth 8 } ∧ others t ∧ t.dev.mem = s.dev.mem) ∧
      (∀ v : W32, ∃ t, exec (.cqHead x 0 v) s = .next t ∧ sqOf t.dev x = { q with cqHead := v } ∧ others t ∧ t.dev.mem = s.dev.mem) ∧
      (∀ v : W32, ∃ t, exec (.cqHead x 1 v) s = .next t ∧ sqOf t.dev x = { q with fqHead := v } ∧ others t ∧ t.dev.mem = s.dev.mem) ∧
      (∀ b n, ∃ t, exec (.cqBase x 0 b n []) s = .next t ∧ sqOf t.dev x = { q with cqBase := b, cqSize := n } ∧ others t) ∧
      (∀ b n, ∃ t, exec (.cqBase x 1 b n []) s = .next t ∧ sqOf t.dev x = { q with fqBase := b, fqSize := n } ∧ others t) ∧
      (∃ t, exec (.sqFlush x 1 []) s = .next t ∧ (sqOf t.dev x).head = (sqOf t.dev x).tail ∧ (sqOf t.dev x).error = false ∧
        (q.head = q.tail → (sqOf t.dev x).discarded = 0 ∧ (sqOf t.dev x).result = 1) ∧
        leNat (bar0Read t.dev (0x80000 * x + 0x400C) 4) % 2 ^ 16 = (sqOf t.dev x).result % 4 + 256 * (sqOf t.dev x).discarded.toNat ∧ others t) ∧
      (∀ v : W32, v ≠ 1 → ∃ t, exec (.sqFlush x v []) s = .next t ∧ sqOf t.dev x = q) ∧
      (∀ v off bs, off + bs.length ≤ 0x4000 → bs ≠ [] → Memory.wf q.slots = true → ∃ t, exec (.sqTail x v [⟨x * 0x80000 + off, bs⟩]) s = .next t ∧
        (sqOf t.dev x).tail = v.setWidth 8 ∧ (∀ j, j < bs.length → readByte (sqOf t.dev x).slots (off + j) = bs.getD j 0) ∧ others t)) ∧
    (∀ va n kb p, (ctxOf s.dev x).state = .idle ∨ (ctxOf s.dev x).state = .running → sleep s.dev = 0 → q.error = false → q.head ≠ q.tail →
      let b (off m : Nat) : Nat := leNat ((List.range m).map fun j => readByte q.slots (64 * q.head.toNat + off + j))
      b 0 3 = 0x000102 → b 8 8 = va → b 16 4 = n → va % 4 = 0 → 1 ≤ n → n ≤ 44 → usable s.dev x va n true = true → n ≤ 65536 - va % 65536 →
      PageByte s.dev x va kb p → s.dev.upset = [] → s.dev.poison = [] →
      ∃ t, exec (.write x) s = .next t ∧ sqOf t.dev x = { q with head := q.head + 1 } ∧
        (∀ j, j < n → readByte t.dev.mem (kb + j) = readByte q.slots (64 * q.head.toNat + 20 + j)) ∧
        ∀ a, ¬ (kb ≤ a ∧ a < kb + n) → readByte t.dev.mem a = readByte s.dev.mem a) ∧
    (∀ r rest n, s.dev.host.busMaster = true →
      (q.cqWait = r :: rest → ringEntries q.cqBase q.cqSize = some n → ringRoom n q.cqHead q.cqTail = true →
        let a := hostKey (q.cqBase.toNat + 64 * (q.cqTail.toNat % n))
        ∃ t, exec (.recordPost x 0) s = .next t ∧ (sqOf t.dev x).cqWait = rest ∧
          (sqOf t.dev x).cqTail = BitVec.ofNat 32 ((q.cqTail.toNat % n + 1) % n) ∧ (∀ j, j < r.length → readByte t.dev.mem (a + j) = r.getD j 0) ∧
          (∀ k, ¬ (a ≤ k ∧ k < a + r.length) → readByte t.dev.mem k = readByte s.dev.mem k) ∧
          (q.irq.toNat.testBit 0 = true → msixCan s.dev (2 * x) = true → t.dev.out = s.dev.out ++
            [.msix (2 * x) (look 0 s.dev.host.msixAddr (2 * x)) (look 0 s.dev.host.msixData (2 * x))])))

/-- The endpoint (R345, R353, R354, R356, R391, R394): a read of a window that shows on-chip memory of a context answers its bytes and a write
changes them; one that the window does not serve is refused and counted; in S3 and S4 it is refused and starts a wake; PERST_N and a Function
Level Reset reset every register of BAR0 and drop mailbox requests; a held MSI-X message leaves when its mask clears, or once the function is a
bus master. -/
def Obligations.HostEndpoint : Prop :=
  ∀ (s : State), Sound s.dev →
    (∀ off, hostUp s.dev = true → s.dev.host.held = [] →
      (∀ k x n, sleep s.dev = 0 → s.dev.upset = [] → winPlace s.dev off n false = some (.onChip k x) → winWaits s.dev (.read off n) = false →
        (∀ j, j < n → look false s.dev.poison ((k + j) / 8) = false) →
        ∃ t, exec (.bar2Read off n []) s = .next t ∧ t.dev.mem = s.dev.mem ∧
          t.dev.out = s.dev.out ++ [.bar2Data ((List.range n).map fun j => readByte s.dev.mem (k + j)) false]) ∧
      (∀ k x n j, sleep s.dev = 0 → winPlace s.dev off n false = some (.onChip k x) → winWaits s.dev (.read off n) = false →
        j < n → look false s.dev.poison ((k + j) / 8) = true →
        ∃ t b, exec (.bar2Read off n []) s = .next t ∧ .bar2Data b true ∈ t.dev.out) ∧
      (∀ n, sleep s.dev = 0 → winWaits s.dev (.read off n) = true → ∃ t, exec (.bar2Read off n []) s = .next t ∧
        t.dev.host.held = [.read off n] ∧ t.dev.out = s.dev.out ∧ t.dev.mem = s.dev.mem) ∧
      (∀ k x bs, sleep s.dev = 0 → s.dev.upset = [] → s.dev.poison = [] → winPlace s.dev off bs.length true = some (.onChip k x) →
        winWaits s.dev (.write off bs) = false →
        ∃ t, exec (.bar2Write off bs []) s = .next t ∧ (∀ j, j < bs.length → readByte t.dev.mem (k + j) = bs.getD j 0) ∧
          ∀ a, ¬ (k ≤ a ∧ a < k + bs.length) → readByte t.dev.mem a = readByte s.dev.mem a) ∧
      (∀ n bs, (winPlace s.dev off n false = none ∧ winPlace s.dev off bs.length true = none ∧ sleep s.dev = 0) ∨ 3 ≤ sleep s.dev →
        let refused : W32 := if s.dev.host.winRefused = 0xFFFFFFFF then 0xFFFFFFFF else s.dev.host.winRefused + 1
        (∃ t, exec (.bar2Read off n []) s = .next t ∧ t.dev.host.winRefused = refused ∧ t.dev.out = s.dev.out ++ [.completerAbort off] ∧
          (3 ≤ sleep s.dev → t.dev.power.waking = true)) ∧
        ∃ t, exec (.bar2Write off bs []) s = .next t ∧ t.dev.host.winRefused = refused ∧ t.dev.mem = s.dev.mem)) ∧
    (∃ t, exec .perstN s = .next t ∧ t.dev.host.linkUp = false ∧ hostUp t.dev = false ∧ t.dev.host.busMaster = false ∧ t.dev.host.busy = false ∧
      (∀ x, (sqOf t.dev x).tail = 0 ∧ (sqOf t.dev x).head = 0 ∧ (sqOf t.dev x).cqBase = 0) ∧
      (∀ r ∈ t.dev.mgmt.queue, r.src.door ≠ .mailbox) ∧ t.dev.mem = s.dev.mem ∧ ∀ x, ctxOf t.dev x = ctxOf s.dev x) ∧
    (∃ t, exec .perstNDeassert s = .next t ∧ t.dev = { s.dev with host := { s.dev.host with
      linkUp := true, answers := s.dev.power.vaux && bootDone s.dev } }) ∧
    (hostUp s.dev = true →
      (∃ t, exec .functionLevelReset s = .next t ∧ hostUp t.dev = true ∧ t.dev.host.busMaster = false ∧ t.dev.host.busy = false ∧
        (∀ x, (sqOf t.dev x).tail = 0 ∧ (sqOf t.dev x).head = 0 ∧ (sqOf t.dev x).cqBase = 0) ∧ ∀ x, ctxOf t.dev x = ctxOf s.dev x) ∧
      (s.dev.host.held = [] → ∃ t, exec .busMasterEnable s = .next t ∧ t.dev.host.busMaster = true ∧
        ∀ v, v < 130 → look false s.dev.host.msixPend v = true → look false s.dev.host.msixOpen v = true → s.dev.host.funcMask = false →
          .msix v (look 0 s.dev.host.msixAddr v) (look 0 s.dev.host.msixData v) ∈ t.dev.out) ∧
      (∀ v, v < 130 → ∃ t, exec (.msixMaskClear v []) s = .next t ∧ look false t.dev.host.msixOpen v = true ∧
        (look false s.dev.host.msixPend v = true → s.dev.host.funcMask = false → s.dev.host.busMaster = true →
          .msix v (look 0 s.dev.host.msixAddr v) (look 0 s.dev.host.msixData v) ∈ t.dev.out)) ∧
      ∃ t, exec (.msixMaskClear 130 []) s = .next t ∧ t.dev.host.funcMask = false)

/-- A request of the mailbox or a frame as the management controller takes it (R359, R363). -/
def RequestIs (r : Request) (door : Door) (b : List Byte) : Prop :=
  r.src.door = door ∧ r.src.txn.toNat = fld b 2 2 ∧ r.service = fld b 1 1 ∧ r.index = fld b 4 2 ∧ r.sub = fld b 6 1 ∧ r.off = fld b 12 4 ∧
    r.len = fld b 10 2

/-- Requests arrive (R355, R361, R363, R364): a doorbell with a good request makes the mailbox BUSY and queues it; one while BUSY is REJECTED; a
good frame for this package is queued, a repeat within 100 ms gets its stored answer again, a frame for another package or of another EtherType
changes nothing, and a malformed one is counted; addresses and EtherType are sent most significant octet first (R6). -/
def Obligations.RequestsArrive : Prop :=
  ∀ (s : State), Sound s.dev →
    (hostUp s.dev = true →
      (∀ len : W32, s.dev.host.busy = false → 16 ≤ len.toNat → len.toNat ≤ 16384 → s.dev.mgmt.queue.length < 8 →
        let b := readMem s.dev.host.req 0 len.toNat
        fld b 1 1 = 1 → fld b 10 2 ≤ 16368 → ∃ t r, exec (.mbDoorbell len []) s = .next t ∧ t.dev.host.busy = true ∧ t.dev.host.rejected = false ∧
          t.dev.host.done = false ∧ t.dev.mgmt.queue = s.dev.mgmt.queue ++ [r] ∧ RequestIs r .mailbox b) ∧
      (∀ len, s.dev.host.busy = true → ∃ t, exec (.mbDoorbell len []) s = .next t ∧ t.dev.host.rejected = true ∧ t.dev.host.busy = true ∧
        t.dev.mgmt.queue = s.dev.mgmt.queue)) ∧
    (mgmtUp s.dev = true → ∀ dst mac msg,
      let comes : Instr := .frameReceive (macBytes dst) (macBytes mac) (etherType ++ msg)
      (∀ rest, rest.take 2 ≠ etherType → exec (.frameReceive (macBytes dst) (macBytes mac) rest) s = .next s) ∧
      (dst ≠ Config.mac → dst ≠ broadcast → exec comes s = .next s) ∧
      (dst = Config.mac → fld msg 0 1 ≠ 1 → ∃ t, exec comes s = .next t ∧ t.dev.mgmt = s.dev.mgmt ∧
        og t.dev 0x1100 8 = min (og s.dev 0x1100 8 + 1) (2 ^ 32 - 1) ∧ t.dev.out = s.dev.out) ∧
      (dst = Config.mac → dst ≠ broadcast → fld msg 0 1 = 1 → fld msg 1 1 = 1 ∨ fld msg 1 1 = 2 → (fld msg 7 1).testBit 0 = false → fld msg 10 2 ≤ 1484 →
        16 + fld msg 10 2 ≤ msg.length → s.dev.mgmt.queue.length < 8 →
        ((∀ e ∈ s.dev.mgmt.cache, e.mac ≠ mac) → ∃ t r, exec comes s = .next t ∧
          t.dev.mgmt.queue = s.dev.mgmt.queue ++ [r] ∧ RequestIs r (.segment mac) msg ∧ r.data = (msg.drop 16).take (fld msg 10 2)) ∧
        (∀ e, s.dev.mgmt.cache = [e] → e.mac = mac → e.txn.toNat = fld msg 2 2 → e.service = fld msg 1 1 → e.index = fld msg 4 2 →
          e.sub = fld msg 6 1 → e.off = fld msg 12 4 → (s.dev.otime.count - e.time).toNat ≤ 80000000 →
          ∃ t, exec comes s = .next t ∧ t.dev.out = s.dev.out ++ [.frame (etherFrame mac e.msg)] ∧
            t.dev.mgmt.queue = s.dev.mgmt.queue)))

/-- Requests are served (R360, R362, R374, R375, R378, R393): READ answers the bytes of an object from its offset, or the status that applies;
DISCOVER answers the identity; a segment that is not the last is kept and answered, and is forgotten after 10 ms; EVENT sends the oldest
windfall; stored defaults are copied, kept or erased; STEP_TRIG stamps orchard time. -/
def Obligations.RequestsServed : Prop :=
  ∀ (s : State) (src : Source) (mac : BitVec 48), Sound s.dev → Ready s.dev → src.door = .segment mac →
    let Replies (o : Instr) (service idx sub status off : Nat) (data : List Byte) : Prop := ∃ t, exec o s = .next t ∧
      t.dev.out = s.dev.out ++ [.frame (etherFrame mac (padded (message service src.txn.toNat idx sub 1 status off data)))] ∧ t.dev.mem = s.dev.mem ∧
      ∀ i j, og t.dev i j = og s.dev i j
    (∀ idx sub len off, (∃ e, objEntry idx sub = some e) → isSealed idx sub = false → timedCount idx sub = none →
      Replies (.read src idx sub len off) 1 idx sub 0 off
        (((objValue { s.dev with free := s.dev.free + 1 } s.meter idx sub).drop off).take (if len = 0 then 1484 else min len 1484))) ∧
    (∀ idx sub w, timedCount idx sub = some w → og s.dev idx sub < 2 ^ w → ∃ t v, exec (.read src idx sub 0 0) s = .next t ∧
      og s.dev idx sub ≤ v ∧ v < 2 ^ w ∧ og t.dev idx sub = v ∧
      t.dev.out = s.dev.out ++ [.frame (etherFrame mac (padded (message 1 src.txn.toNat idx sub 1 0 0 (toLE (w / 8) v))))]) ∧
    (∀ idx sub len off, objEntry idx sub = none → Replies (.read src idx sub len off) 1 idx sub 0x0101 off []) ∧
    (Replies (.discover src) 3 0 0 0 0 (toLE 8 Config.serial.toNat ++ toLE 8 Config.mac.toNat ++ toLE 2 (og s.dev 0x3010 1) ++
      toLE 1 (og s.dev 0x1100 1) ++ toLE 1 (og s.dev 0x1000 7) ++ zeros 4)) ∧
    (∀ idx sub data, segOf s.dev src.door = none → s.dev.mgmt.segs.length < 4 → ∃ t, exec (.writeSegment src idx sub 0 data) s = .next t ∧
      segOf t.dev src.door = some ⟨src.door, idx, sub, data⟩ ∧
      t.dev.out = s.dev.out ++ [.frame (etherFrame mac (padded (message 2 src.txn.toNat idx sub 1 0 0 [])))] ∧ t.dev.mgmt.journal = s.dev.mgmt.journal) ∧
    (∀ g, segOf s.dev src.door = some g → ∃ t, exec (.segmentTimeout mac) s = .next t ∧ segOf t.dev src.door = none ∧
      src.door ∈ t.dev.mgmt.late) ∧
    (segOf s.dev src.door = none → exec (.segmentTimeout mac) s = .next s) ∧
    (∀ w txn r, s.dev.faults.events = (w, txn) :: r → ∃ t, exec .event s = .next t ∧ t.dev.faults.events = r ∧
      t.dev.out = s.dev.out ++ [.frame (etherFrame (BitVec.ofNat 48 (og s.dev 0x1100 6)) (padded (message 0x10 txn.toNat 0x8000 4 0 0 0 (toLE 16 w.toNat))))]) ∧
    (s.dev.mgmt.storing = none →
      (∃ t tb, exec (.nvStoreDefaults src) s = .next t ∧ WriteAnswered s t src 0x1100 9 0 ∧ t.dev.mgmt.storing = some tb ∧
        (∀ e, e ∈ tb ↔ e ∈ s.dev.obj ∧ storable (e.1 / 256) (e.1 % 256) = true) ∧ og t.dev 0x1100 10 = 2) ∧
      ∃ t, exec (.nvErase src) s = .next t ∧ WriteAnswered s t src 0x1100 9 0 ∧ t.dev.mgmt.stored = none ∧ og t.dev 0x1100 10 = 0) ∧
    (∀ tb, s.dev.mgmt.storing = some tb →
      (∃ t, exec (.nvStoreDone true) s = .next t ∧ t.dev.mgmt.stored = some tb ∧ t.dev.mgmt.storing = none ∧ og t.dev 0x1100 10 = 1) ∧
      ∃ t, exec (.nvStoreDone false) s = .next t ∧ t.dev.mgmt.stored = s.dev.mgmt.stored ∧ t.dev.mgmt.storing = none ∧
        og t.dev 0x1100 10 = 3) ∧
    (og s.dev 0x6040 1 = 1 → ∃ t, exec .stepTrig s = .next t ∧ og t.dev 0x6040 3 = s.dev.otime.count.toNat ∧
      og t.dev 0x6040 4 = min (og s.dev 0x6040 4 + 1) (2 ^ 32 - 1)) ∧
    (og s.dev 0x6040 1 = 0 → exec .stepTrig s = .next s)
end

