-- ==== Sys2Proof/Laws/Sound.lean ====
section
/-! SUPPORT. A check that decides whether a state is sound, and the state at reset. -/

namespace Sys2Proof.Machine

/-- Whether the keys of a table rise. -/
def risingB {α : Type} : Table α → Bool
  | [] => true
  | [_] => true
  | a :: b :: r => decide (a.1 < b.1) && risingB (b :: r)

theorem rising_of_risingB {α : Type} {t : Table α} (h : risingB t = true) : Rising t := by
  induction t with
  | nil => exact Rising.nil
  | cons a r ih =>
    cases r with
    | nil => exact List.pairwise_singleton _ _
    | cons b r =>
      simp only [risingB, Bool.and_eq_true, decide_eq_true_eq] at h
      have hr := ih h.2
      refine List.pairwise_cons.2 ⟨fun x hx => ?_, hr⟩
      rcases List.mem_cons.1 hx with rfl | hx
      · exact h.1
      · exact Nat.lt_trans h.1 ((List.pairwise_cons.1 hr).1 x hx)

/-- The checks of a core, of a cluster, of the memories and their marks, of the parts by number, of the objects, and of power and grafts. -/
def coreB (k : Core) : Bool := risingB k.x && risingB k.v && risingB k.p && risingB k.engines
def clusterB (k : Cluster) : Bool := risingB k.regions && risingB k.dma && risingB k.cache
def memoryB (d : Dev) : Bool := Memory.wf d.mem && risingB d.poison && risingB d.upset
def frameB (v : Vm) : Bool := risingB v.pages && risingB v.hbmUsed && risingB v.tierUsed
def unitB (d : Dev) : Bool := risingB d.cores && d.cores.all (fun e => coreB e.2) && risingB d.clusters && d.clusters.all fun e => clusterB e.2
def tableB (d : Dev) : Bool := risingB d.tallies && risingB d.ctxs && risingB d.host.sqs && risingB d.obj && risingB d.live
def netB (d : Dev) : Bool := risingB d.links && risingB d.ports && risingB d.routes
def powerB (p : Power) : Bool := risingB p.effective && risingB p.throttle && risingB p.changing
def graftB (g : Graft) : Bool := risingB g.clusters && risingB g.cores && risingB g.columns && risingB g.optics

/-- Whether a block is sound. -/
def soundB (d : Dev) : Bool :=
  [memoryB d, frameB d.vm, unitB d, tableB d, netB d, powerB d.power, graftB d.graft].all id

theorem coreSound_of_coreB {k : Core} (h : coreB k = true) : CoreSound k := by
  simp only [coreB, Bool.and_eq_true] at h
  obtain ⟨⟨⟨x, v⟩, p⟩, engines⟩ := h
  exact ⟨rising_of_risingB x, rising_of_risingB v, rising_of_risingB p, rising_of_risingB engines⟩

theorem clusterSound_of_clusterB {k : Cluster} (h : clusterB k = true) : ClusterSound k := by
  simp only [clusterB, Bool.and_eq_true] at h
  obtain ⟨⟨regions, dma⟩, cache⟩ := h
  exact ⟨rising_of_risingB regions, rising_of_risingB dma, rising_of_risingB cache⟩

/-- A block that passes the check is sound. -/
theorem sound_of_soundB {d : Dev} (h : soundB d = true) : Sound d := by
  simp only [soundB, List.all_cons, List.all_nil, id_eq, Bool.and_true, Bool.and_eq_true, memoryB, frameB, unitB, tableB, netB, powerB, graftB,
    List.all_eq_true] at h
  obtain ⟨memory, frames, units, tables, net, power, grafts⟩ := h
  exact {
    mem := memory.1.1
    poison := rising_of_risingB memory.1.2
    upset := rising_of_risingB memory.2
    pages := rising_of_risingB frames.1.1
    hbm := rising_of_risingB frames.1.2
    tier := rising_of_risingB frames.2
    cores := rising_of_risingB units.1.1.1
    core := fun e he => coreSound_of_coreB (units.1.1.2 e he)
    clusters := rising_of_risingB units.1.2
    cluster := fun e he => clusterSound_of_clusterB (units.2 e he)
    tallies := rising_of_risingB tables.1.1.1.1
    ctxs := rising_of_risingB tables.1.1.1.2
    sqs := rising_of_risingB tables.1.1.2
    obj := rising_of_risingB tables.1.2
    live := rising_of_risingB tables.2
    links := rising_of_risingB net.1.1
    ports := rising_of_risingB net.1.2
    routes := rising_of_risingB net.2
    effective := rising_of_risingB power.1.1
    throttle := rising_of_risingB power.1.2
    changing := rising_of_risingB power.2
    grafts := ⟨rising_of_risingB grafts.1.1.1, rising_of_risingB grafts.1.1.2, rising_of_risingB grafts.1.2, rising_of_risingB grafts.2⟩ }

end Sys2Proof.Machine
end

