-- ==== Sys2Proof/Laws/State.lean ====
section
/-! SUPPORT. What each named update of the block leaves as it was: one lemma per field and update, so that no proof unfolds a record. -/

namespace Sys2Proof.Machine

/-! ### coreSet -/

@[simp] theorem coreSet_free (d : Dev) (c : Nat) (v : Core) : (coreSet d c v).free = d.free := rfl
@[simp] theorem coreSet_out (d : Dev) (c : Nat) (v : Core) : (coreSet d c v).out = d.out := rfl
@[simp] theorem coreSet_clusters (d : Dev) (c : Nat) (v : Core) : (coreSet d c v).clusters = d.clusters := rfl
@[simp] theorem coreSet_tallies (d : Dev) (c : Nat) (v : Core) : (coreSet d c v).tallies = d.tallies := rfl
@[simp] theorem coreSet_inflight (d : Dev) (c : Nat) (v : Core) : (coreSet d c v).inflight = d.inflight := rfl
@[simp] theorem coreSet_mem (d : Dev) (c : Nat) (v : Core) : (coreSet d c v).mem = d.mem := rfl
@[simp] theorem coreSet_poison (d : Dev) (c : Nat) (v : Core) : (coreSet d c v).poison = d.poison := rfl
@[simp] theorem coreSet_upset (d : Dev) (c : Nat) (v : Core) : (coreSet d c v).upset = d.upset := rfl
@[simp] theorem coreSet_vm (d : Dev) (c : Nat) (v : Core) : (coreSet d c v).vm = d.vm := rfl
@[simp] theorem coreSet_ctxs (d : Dev) (c : Nat) (v : Core) : (coreSet d c v).ctxs = d.ctxs := rfl
@[simp] theorem coreSet_images (d : Dev) (c : Nat) (v : Core) : (coreSet d c v).images = d.images := rfl
@[simp] theorem coreSet_nextFault (d : Dev) (c : Nat) (v : Core) : (coreSet d c v).nextFault = d.nextFault := rfl
@[simp] theorem coreSet_ports (d : Dev) (c : Nat) (v : Core) : (coreSet d c v).ports = d.ports := rfl
@[simp] theorem coreSet_links (d : Dev) (c : Nat) (v : Core) : (coreSet d c v).links = d.links := rfl
@[simp] theorem coreSet_routes (d : Dev) (c : Nat) (v : Core) : (coreSet d c v).routes = d.routes := rfl
@[simp] theorem coreSet_otime (d : Dev) (c : Nat) (v : Core) : (coreSet d c v).otime = d.otime := rfl
@[simp] theorem coreSet_faults (d : Dev) (c : Nat) (v : Core) : (coreSet d c v).faults = d.faults := rfl
@[simp] theorem coreSet_graft (d : Dev) (c : Nat) (v : Core) : (coreSet d c v).graft = d.graft := rfl
@[simp] theorem coreSet_host (d : Dev) (c : Nat) (v : Core) : (coreSet d c v).host = d.host := rfl
@[simp] theorem coreSet_mgmt (d : Dev) (c : Nat) (v : Core) : (coreSet d c v).mgmt = d.mgmt := rfl
@[simp] theorem coreSet_obj (d : Dev) (c : Nat) (v : Core) : (coreSet d c v).obj = d.obj := rfl
@[simp] theorem coreSet_live (d : Dev) (c : Nat) (v : Core) : (coreSet d c v).live = d.live := rfl
@[simp] theorem coreSet_arb (d : Dev) (c : Nat) (v : Core) : (coreSet d c v).arb = d.arb := rfl
@[simp] theorem coreSet_power (d : Dev) (c : Nat) (v : Core) : (coreSet d c v).power = d.power := rfl

/-! ### clusterSet -/

@[simp] theorem clusterSet_free (d : Dev) (cl : Nat) (v : Cluster) : (clusterSet d cl v).free = d.free := rfl
@[simp] theorem clusterSet_out (d : Dev) (cl : Nat) (v : Cluster) : (clusterSet d cl v).out = d.out := rfl
@[simp] theorem clusterSet_cores (d : Dev) (cl : Nat) (v : Cluster) : (clusterSet d cl v).cores = d.cores := rfl
@[simp] theorem clusterSet_tallies (d : Dev) (cl : Nat) (v : Cluster) : (clusterSet d cl v).tallies = d.tallies := rfl
@[simp] theorem clusterSet_inflight (d : Dev) (cl : Nat) (v : Cluster) : (clusterSet d cl v).inflight = d.inflight := rfl
@[simp] theorem clusterSet_mem (d : Dev) (cl : Nat) (v : Cluster) : (clusterSet d cl v).mem = d.mem := rfl
@[simp] theorem clusterSet_poison (d : Dev) (cl : Nat) (v : Cluster) : (clusterSet d cl v).poison = d.poison := rfl
@[simp] theorem clusterSet_upset (d : Dev) (cl : Nat) (v : Cluster) : (clusterSet d cl v).upset = d.upset := rfl
@[simp] theorem clusterSet_vm (d : Dev) (cl : Nat) (v : Cluster) : (clusterSet d cl v).vm = d.vm := rfl
@[simp] theorem clusterSet_ctxs (d : Dev) (cl : Nat) (v : Cluster) : (clusterSet d cl v).ctxs = d.ctxs := rfl
@[simp] theorem clusterSet_images (d : Dev) (cl : Nat) (v : Cluster) : (clusterSet d cl v).images = d.images := rfl
@[simp] theorem clusterSet_nextFault (d : Dev) (cl : Nat) (v : Cluster) : (clusterSet d cl v).nextFault = d.nextFault := rfl
@[simp] theorem clusterSet_ports (d : Dev) (cl : Nat) (v : Cluster) : (clusterSet d cl v).ports = d.ports := rfl
@[simp] theorem clusterSet_links (d : Dev) (cl : Nat) (v : Cluster) : (clusterSet d cl v).links = d.links := rfl
@[simp] theorem clusterSet_routes (d : Dev) (cl : Nat) (v : Cluster) : (clusterSet d cl v).routes = d.routes := rfl
@[simp] theorem clusterSet_otime (d : Dev) (cl : Nat) (v : Cluster) : (clusterSet d cl v).otime = d.otime := rfl
@[simp] theorem clusterSet_faults (d : Dev) (cl : Nat) (v : Cluster) : (clusterSet d cl v).faults = d.faults := rfl
@[simp] theorem clusterSet_graft (d : Dev) (cl : Nat) (v : Cluster) : (clusterSet d cl v).graft = d.graft := rfl
@[simp] theorem clusterSet_host (d : Dev) (cl : Nat) (v : Cluster) : (clusterSet d cl v).host = d.host := rfl
@[simp] theorem clusterSet_mgmt (d : Dev) (cl : Nat) (v : Cluster) : (clusterSet d cl v).mgmt = d.mgmt := rfl
@[simp] theorem clusterSet_obj (d : Dev) (cl : Nat) (v : Cluster) : (clusterSet d cl v).obj = d.obj := rfl
@[simp] theorem clusterSet_live (d : Dev) (cl : Nat) (v : Cluster) : (clusterSet d cl v).live = d.live := rfl
@[simp] theorem clusterSet_arb (d : Dev) (cl : Nat) (v : Cluster) : (clusterSet d cl v).arb = d.arb := rfl
@[simp] theorem clusterSet_power (d : Dev) (cl : Nat) (v : Cluster) : (clusterSet d cl v).power = d.power := rfl

/-! ### ctxSet -/

@[simp] theorem ctxSet_free (d : Dev) (x : Nat) (v : Ctx) : (ctxSet d x v).free = d.free := rfl
@[simp] theorem ctxSet_out (d : Dev) (x : Nat) (v : Ctx) : (ctxSet d x v).out = d.out := rfl
@[simp] theorem ctxSet_cores (d : Dev) (x : Nat) (v : Ctx) : (ctxSet d x v).cores = d.cores := rfl
@[simp] theorem ctxSet_clusters (d : Dev) (x : Nat) (v : Ctx) : (ctxSet d x v).clusters = d.clusters := rfl
@[simp] theorem ctxSet_tallies (d : Dev) (x : Nat) (v : Ctx) : (ctxSet d x v).tallies = d.tallies := rfl
@[simp] theorem ctxSet_inflight (d : Dev) (x : Nat) (v : Ctx) : (ctxSet d x v).inflight = d.inflight := rfl
@[simp] theorem ctxSet_mem (d : Dev) (x : Nat) (v : Ctx) : (ctxSet d x v).mem = d.mem := rfl
@[simp] theorem ctxSet_poison (d : Dev) (x : Nat) (v : Ctx) : (ctxSet d x v).poison = d.poison := rfl
@[simp] theorem ctxSet_upset (d : Dev) (x : Nat) (v : Ctx) : (ctxSet d x v).upset = d.upset := rfl
@[simp] theorem ctxSet_vm (d : Dev) (x : Nat) (v : Ctx) : (ctxSet d x v).vm = d.vm := rfl
@[simp] theorem ctxSet_images (d : Dev) (x : Nat) (v : Ctx) : (ctxSet d x v).images = d.images := rfl
@[simp] theorem ctxSet_nextFault (d : Dev) (x : Nat) (v : Ctx) : (ctxSet d x v).nextFault = d.nextFault := rfl
@[simp] theorem ctxSet_ports (d : Dev) (x : Nat) (v : Ctx) : (ctxSet d x v).ports = d.ports := rfl
@[simp] theorem ctxSet_links (d : Dev) (x : Nat) (v : Ctx) : (ctxSet d x v).links = d.links := rfl
@[simp] theorem ctxSet_routes (d : Dev) (x : Nat) (v : Ctx) : (ctxSet d x v).routes = d.routes := rfl
@[simp] theorem ctxSet_otime (d : Dev) (x : Nat) (v : Ctx) : (ctxSet d x v).otime = d.otime := rfl
@[simp] theorem ctxSet_faults (d : Dev) (x : Nat) (v : Ctx) : (ctxSet d x v).faults = d.faults := rfl
@[simp] theorem ctxSet_graft (d : Dev) (x : Nat) (v : Ctx) : (ctxSet d x v).graft = d.graft := rfl
@[simp] theorem ctxSet_host (d : Dev) (x : Nat) (v : Ctx) : (ctxSet d x v).host = d.host := rfl
@[simp] theorem ctxSet_mgmt (d : Dev) (x : Nat) (v : Ctx) : (ctxSet d x v).mgmt = d.mgmt := rfl
@[simp] theorem ctxSet_obj (d : Dev) (x : Nat) (v : Ctx) : (ctxSet d x v).obj = d.obj := rfl
@[simp] theorem ctxSet_live (d : Dev) (x : Nat) (v : Ctx) : (ctxSet d x v).live = d.live := rfl
@[simp] theorem ctxSet_arb (d : Dev) (x : Nat) (v : Ctx) : (ctxSet d x v).arb = d.arb := rfl
@[simp] theorem ctxSet_power (d : Dev) (x : Nat) (v : Ctx) : (ctxSet d x v).power = d.power := rfl

/-! ### linkSet -/

@[simp] theorem linkSet_free (d : Dev) (l : Nat) (v : Link) : (linkSet d l v).free = d.free := rfl
@[simp] theorem linkSet_out (d : Dev) (l : Nat) (v : Link) : (linkSet d l v).out = d.out := rfl
@[simp] theorem linkSet_cores (d : Dev) (l : Nat) (v : Link) : (linkSet d l v).cores = d.cores := rfl
@[simp] theorem linkSet_clusters (d : Dev) (l : Nat) (v : Link) : (linkSet d l v).clusters = d.clusters := rfl
@[simp] theorem linkSet_tallies (d : Dev) (l : Nat) (v : Link) : (linkSet d l v).tallies = d.tallies := rfl
@[simp] theorem linkSet_inflight (d : Dev) (l : Nat) (v : Link) : (linkSet d l v).inflight = d.inflight := rfl
@[simp] theorem linkSet_mem (d : Dev) (l : Nat) (v : Link) : (linkSet d l v).mem = d.mem := rfl
@[simp] theorem linkSet_poison (d : Dev) (l : Nat) (v : Link) : (linkSet d l v).poison = d.poison := rfl
@[simp] theorem linkSet_upset (d : Dev) (l : Nat) (v : Link) : (linkSet d l v).upset = d.upset := rfl
@[simp] theorem linkSet_vm (d : Dev) (l : Nat) (v : Link) : (linkSet d l v).vm = d.vm := rfl
@[simp] theorem linkSet_ctxs (d : Dev) (l : Nat) (v : Link) : (linkSet d l v).ctxs = d.ctxs := rfl
@[simp] theorem linkSet_images (d : Dev) (l : Nat) (v : Link) : (linkSet d l v).images = d.images := rfl
@[simp] theorem linkSet_nextFault (d : Dev) (l : Nat) (v : Link) : (linkSet d l v).nextFault = d.nextFault := rfl
@[simp] theorem linkSet_ports (d : Dev) (l : Nat) (v : Link) : (linkSet d l v).ports = d.ports := rfl
@[simp] theorem linkSet_routes (d : Dev) (l : Nat) (v : Link) : (linkSet d l v).routes = d.routes := rfl
@[simp] theorem linkSet_otime (d : Dev) (l : Nat) (v : Link) : (linkSet d l v).otime = d.otime := rfl
@[simp] theorem linkSet_faults (d : Dev) (l : Nat) (v : Link) : (linkSet d l v).faults = d.faults := rfl
@[simp] theorem linkSet_graft (d : Dev) (l : Nat) (v : Link) : (linkSet d l v).graft = d.graft := rfl
@[simp] theorem linkSet_host (d : Dev) (l : Nat) (v : Link) : (linkSet d l v).host = d.host := rfl
@[simp] theorem linkSet_mgmt (d : Dev) (l : Nat) (v : Link) : (linkSet d l v).mgmt = d.mgmt := rfl
@[simp] theorem linkSet_obj (d : Dev) (l : Nat) (v : Link) : (linkSet d l v).obj = d.obj := rfl
@[simp] theorem linkSet_live (d : Dev) (l : Nat) (v : Link) : (linkSet d l v).live = d.live := rfl
@[simp] theorem linkSet_arb (d : Dev) (l : Nat) (v : Link) : (linkSet d l v).arb = d.arb := rfl
@[simp] theorem linkSet_power (d : Dev) (l : Nat) (v : Link) : (linkSet d l v).power = d.power := rfl

/-! ### portSet -/

@[simp] theorem portSet_free (d : Dev) (p : Nat) (v : Port) : (portSet d p v).free = d.free := rfl
@[simp] theorem portSet_out (d : Dev) (p : Nat) (v : Port) : (portSet d p v).out = d.out := rfl
@[simp] theorem portSet_cores (d : Dev) (p : Nat) (v : Port) : (portSet d p v).cores = d.cores := rfl
@[simp] theorem portSet_clusters (d : Dev) (p : Nat) (v : Port) : (portSet d p v).clusters = d.clusters := rfl
@[simp] theorem portSet_tallies (d : Dev) (p : Nat) (v : Port) : (portSet d p v).tallies = d.tallies := rfl
@[simp] theorem portSet_inflight (d : Dev) (p : Nat) (v : Port) : (portSet d p v).inflight = d.inflight := rfl
@[simp] theorem portSet_mem (d : Dev) (p : Nat) (v : Port) : (portSet d p v).mem = d.mem := rfl
@[simp] theorem portSet_poison (d : Dev) (p : Nat) (v : Port) : (portSet d p v).poison = d.poison := rfl
@[simp] theorem portSet_upset (d : Dev) (p : Nat) (v : Port) : (portSet d p v).upset = d.upset := rfl
@[simp] theorem portSet_vm (d : Dev) (p : Nat) (v : Port) : (portSet d p v).vm = d.vm := rfl
@[simp] theorem portSet_ctxs (d : Dev) (p : Nat) (v : Port) : (portSet d p v).ctxs = d.ctxs := rfl
@[simp] theorem portSet_images (d : Dev) (p : Nat) (v : Port) : (portSet d p v).images = d.images := rfl
@[simp] theorem portSet_nextFault (d : Dev) (p : Nat) (v : Port) : (portSet d p v).nextFault = d.nextFault := rfl
@[simp] theorem portSet_links (d : Dev) (p : Nat) (v : Port) : (portSet d p v).links = d.links := rfl
@[simp] theorem portSet_routes (d : Dev) (p : Nat) (v : Port) : (portSet d p v).routes = d.routes := rfl
@[simp] theorem portSet_otime (d : Dev) (p : Nat) (v : Port) : (portSet d p v).otime = d.otime := rfl
@[simp] theorem portSet_faults (d : Dev) (p : Nat) (v : Port) : (portSet d p v).faults = d.faults := rfl
@[simp] theorem portSet_graft (d : Dev) (p : Nat) (v : Port) : (portSet d p v).graft = d.graft := rfl
@[simp] theorem portSet_host (d : Dev) (p : Nat) (v : Port) : (portSet d p v).host = d.host := rfl
@[simp] theorem portSet_mgmt (d : Dev) (p : Nat) (v : Port) : (portSet d p v).mgmt = d.mgmt := rfl
@[simp] theorem portSet_obj (d : Dev) (p : Nat) (v : Port) : (portSet d p v).obj = d.obj := rfl
@[simp] theorem portSet_live (d : Dev) (p : Nat) (v : Port) : (portSet d p v).live = d.live := rfl
@[simp] theorem portSet_arb (d : Dev) (p : Nat) (v : Port) : (portSet d p v).arb = d.arb := rfl
@[simp] theorem portSet_power (d : Dev) (p : Nat) (v : Port) : (portSet d p v).power = d.power := rfl

/-! ### sqSet -/

@[simp] theorem sqSet_free (d : Dev) (x : Nat) (v : Sq) : (sqSet d x v).free = d.free := rfl
@[simp] theorem sqSet_out (d : Dev) (x : Nat) (v : Sq) : (sqSet d x v).out = d.out := rfl
@[simp] theorem sqSet_cores (d : Dev) (x : Nat) (v : Sq) : (sqSet d x v).cores = d.cores := rfl
@[simp] theorem sqSet_clusters (d : Dev) (x : Nat) (v : Sq) : (sqSet d x v).clusters = d.clusters := rfl
@[simp] theorem sqSet_tallies (d : Dev) (x : Nat) (v : Sq) : (sqSet d x v).tallies = d.tallies := rfl
@[simp] theorem sqSet_inflight (d : Dev) (x : Nat) (v : Sq) : (sqSet d x v).inflight = d.inflight := rfl
@[simp] theorem sqSet_mem (d : Dev) (x : Nat) (v : Sq) : (sqSet d x v).mem = d.mem := rfl
@[simp] theorem sqSet_poison (d : Dev) (x : Nat) (v : Sq) : (sqSet d x v).poison = d.poison := rfl
@[simp] theorem sqSet_upset (d : Dev) (x : Nat) (v : Sq) : (sqSet d x v).upset = d.upset := rfl
@[simp] theorem sqSet_vm (d : Dev) (x : Nat) (v : Sq) : (sqSet d x v).vm = d.vm := rfl
@[simp] theorem sqSet_ctxs (d : Dev) (x : Nat) (v : Sq) : (sqSet d x v).ctxs = d.ctxs := rfl
@[simp] theorem sqSet_images (d : Dev) (x : Nat) (v : Sq) : (sqSet d x v).images = d.images := rfl
@[simp] theorem sqSet_nextFault (d : Dev) (x : Nat) (v : Sq) : (sqSet d x v).nextFault = d.nextFault := rfl
@[simp] theorem sqSet_ports (d : Dev) (x : Nat) (v : Sq) : (sqSet d x v).ports = d.ports := rfl
@[simp] theorem sqSet_links (d : Dev) (x : Nat) (v : Sq) : (sqSet d x v).links = d.links := rfl
@[simp] theorem sqSet_routes (d : Dev) (x : Nat) (v : Sq) : (sqSet d x v).routes = d.routes := rfl
@[simp] theorem sqSet_otime (d : Dev) (x : Nat) (v : Sq) : (sqSet d x v).otime = d.otime := rfl
@[simp] theorem sqSet_faults (d : Dev) (x : Nat) (v : Sq) : (sqSet d x v).faults = d.faults := rfl
@[simp] theorem sqSet_graft (d : Dev) (x : Nat) (v : Sq) : (sqSet d x v).graft = d.graft := rfl
@[simp] theorem sqSet_mgmt (d : Dev) (x : Nat) (v : Sq) : (sqSet d x v).mgmt = d.mgmt := rfl
@[simp] theorem sqSet_obj (d : Dev) (x : Nat) (v : Sq) : (sqSet d x v).obj = d.obj := rfl
@[simp] theorem sqSet_live (d : Dev) (x : Nat) (v : Sq) : (sqSet d x v).live = d.live := rfl
@[simp] theorem sqSet_arb (d : Dev) (x : Nat) (v : Sq) : (sqSet d x v).arb = d.arb := rfl
@[simp] theorem sqSet_power (d : Dev) (x : Nat) (v : Sq) : (sqSet d x v).power = d.power := rfl

/-! ### tallySet -/

@[simp] theorem tallySet_free (d : Dev) (k : Nat) (v : Tally) : (tallySet d k v).free = d.free := rfl
@[simp] theorem tallySet_out (d : Dev) (k : Nat) (v : Tally) : (tallySet d k v).out = d.out := rfl
@[simp] theorem tallySet_cores (d : Dev) (k : Nat) (v : Tally) : (tallySet d k v).cores = d.cores := rfl
@[simp] theorem tallySet_clusters (d : Dev) (k : Nat) (v : Tally) : (tallySet d k v).clusters = d.clusters := rfl
@[simp] theorem tallySet_inflight (d : Dev) (k : Nat) (v : Tally) : (tallySet d k v).inflight = d.inflight := rfl
@[simp] theorem tallySet_mem (d : Dev) (k : Nat) (v : Tally) : (tallySet d k v).mem = d.mem := rfl
@[simp] theorem tallySet_poison (d : Dev) (k : Nat) (v : Tally) : (tallySet d k v).poison = d.poison := rfl
@[simp] theorem tallySet_upset (d : Dev) (k : Nat) (v : Tally) : (tallySet d k v).upset = d.upset := rfl
@[simp] theorem tallySet_vm (d : Dev) (k : Nat) (v : Tally) : (tallySet d k v).vm = d.vm := rfl
@[simp] theorem tallySet_ctxs (d : Dev) (k : Nat) (v : Tally) : (tallySet d k v).ctxs = d.ctxs := rfl
@[simp] theorem tallySet_images (d : Dev) (k : Nat) (v : Tally) : (tallySet d k v).images = d.images := rfl
@[simp] theorem tallySet_nextFault (d : Dev) (k : Nat) (v : Tally) : (tallySet d k v).nextFault = d.nextFault := rfl
@[simp] theorem tallySet_ports (d : Dev) (k : Nat) (v : Tally) : (tallySet d k v).ports = d.ports := rfl
@[simp] theorem tallySet_links (d : Dev) (k : Nat) (v : Tally) : (tallySet d k v).links = d.links := rfl
@[simp] theorem tallySet_routes (d : Dev) (k : Nat) (v : Tally) : (tallySet d k v).routes = d.routes := rfl
@[simp] theorem tallySet_otime (d : Dev) (k : Nat) (v : Tally) : (tallySet d k v).otime = d.otime := rfl
@[simp] theorem tallySet_faults (d : Dev) (k : Nat) (v : Tally) : (tallySet d k v).faults = d.faults := rfl
@[simp] theorem tallySet_graft (d : Dev) (k : Nat) (v : Tally) : (tallySet d k v).graft = d.graft := rfl
@[simp] theorem tallySet_host (d : Dev) (k : Nat) (v : Tally) : (tallySet d k v).host = d.host := rfl
@[simp] theorem tallySet_mgmt (d : Dev) (k : Nat) (v : Tally) : (tallySet d k v).mgmt = d.mgmt := rfl
@[simp] theorem tallySet_obj (d : Dev) (k : Nat) (v : Tally) : (tallySet d k v).obj = d.obj := rfl
@[simp] theorem tallySet_live (d : Dev) (k : Nat) (v : Tally) : (tallySet d k v).live = d.live := rfl
@[simp] theorem tallySet_arb (d : Dev) (k : Nat) (v : Tally) : (tallySet d k v).arb = d.arb := rfl
@[simp] theorem tallySet_power (d : Dev) (k : Nat) (v : Tally) : (tallySet d k v).power = d.power := rfl

/-! ### emit -/

@[simp] theorem emit_free (d : Dev) (o : OutItem) : (emit d o).free = d.free := rfl
@[simp] theorem emit_cores (d : Dev) (o : OutItem) : (emit d o).cores = d.cores := rfl
@[simp] theorem emit_clusters (d : Dev) (o : OutItem) : (emit d o).clusters = d.clusters := rfl
@[simp] theorem emit_tallies (d : Dev) (o : OutItem) : (emit d o).tallies = d.tallies := rfl
@[simp] theorem emit_inflight (d : Dev) (o : OutItem) : (emit d o).inflight = d.inflight := rfl
@[simp] theorem emit_mem (d : Dev) (o : OutItem) : (emit d o).mem = d.mem := rfl
@[simp] theorem emit_poison (d : Dev) (o : OutItem) : (emit d o).poison = d.poison := rfl
@[simp] theorem emit_upset (d : Dev) (o : OutItem) : (emit d o).upset = d.upset := rfl
@[simp] theorem emit_vm (d : Dev) (o : OutItem) : (emit d o).vm = d.vm := rfl
@[simp] theorem emit_ctxs (d : Dev) (o : OutItem) : (emit d o).ctxs = d.ctxs := rfl
@[simp] theorem emit_images (d : Dev) (o : OutItem) : (emit d o).images = d.images := rfl
@[simp] theorem emit_nextFault (d : Dev) (o : OutItem) : (emit d o).nextFault = d.nextFault := rfl
@[simp] theorem emit_ports (d : Dev) (o : OutItem) : (emit d o).ports = d.ports := rfl
@[simp] theorem emit_links (d : Dev) (o : OutItem) : (emit d o).links = d.links := rfl
@[simp] theorem emit_routes (d : Dev) (o : OutItem) : (emit d o).routes = d.routes := rfl
@[simp] theorem emit_otime (d : Dev) (o : OutItem) : (emit d o).otime = d.otime := rfl
@[simp] theorem emit_faults (d : Dev) (o : OutItem) : (emit d o).faults = d.faults := rfl
@[simp] theorem emit_graft (d : Dev) (o : OutItem) : (emit d o).graft = d.graft := rfl
@[simp] theorem emit_host (d : Dev) (o : OutItem) : (emit d o).host = d.host := rfl
@[simp] theorem emit_mgmt (d : Dev) (o : OutItem) : (emit d o).mgmt = d.mgmt := rfl
@[simp] theorem emit_obj (d : Dev) (o : OutItem) : (emit d o).obj = d.obj := rfl
@[simp] theorem emit_live (d : Dev) (o : OutItem) : (emit d o).live = d.live := rfl
@[simp] theorem emit_arb (d : Dev) (o : OutItem) : (emit d o).arb = d.arb := rfl
@[simp] theorem emit_power (d : Dev) (o : OutItem) : (emit d o).power = d.power := rfl

/-! ### oset -/

@[simp] theorem oset_free (d : Dev) (i j v : Nat) : (oset d i j v).free = d.free := rfl
@[simp] theorem oset_out (d : Dev) (i j v : Nat) : (oset d i j v).out = d.out := rfl
@[simp] theorem oset_cores (d : Dev) (i j v : Nat) : (oset d i j v).cores = d.cores := rfl
@[simp] theorem oset_clusters (d : Dev) (i j v : Nat) : (oset d i j v).clusters = d.clusters := rfl
@[simp] theorem oset_tallies (d : Dev) (i j v : Nat) : (oset d i j v).tallies = d.tallies := rfl
@[simp] theorem oset_inflight (d : Dev) (i j v : Nat) : (oset d i j v).inflight = d.inflight := rfl
@[simp] theorem oset_mem (d : Dev) (i j v : Nat) : (oset d i j v).mem = d.mem := rfl
@[simp] theorem oset_poison (d : Dev) (i j v : Nat) : (oset d i j v).poison = d.poison := rfl
@[simp] theorem oset_upset (d : Dev) (i j v : Nat) : (oset d i j v).upset = d.upset := rfl
@[simp] theorem oset_vm (d : Dev) (i j v : Nat) : (oset d i j v).vm = d.vm := rfl
@[simp] theorem oset_ctxs (d : Dev) (i j v : Nat) : (oset d i j v).ctxs = d.ctxs := rfl
@[simp] theorem oset_images (d : Dev) (i j v : Nat) : (oset d i j v).images = d.images := rfl
@[simp] theorem oset_nextFault (d : Dev) (i j v : Nat) : (oset d i j v).nextFault = d.nextFault := rfl
@[simp] theorem oset_ports (d : Dev) (i j v : Nat) : (oset d i j v).ports = d.ports := rfl
@[simp] theorem oset_links (d : Dev) (i j v : Nat) : (oset d i j v).links = d.links := rfl
@[simp] theorem oset_routes (d : Dev) (i j v : Nat) : (oset d i j v).routes = d.routes := rfl
@[simp] theorem oset_otime (d : Dev) (i j v : Nat) : (oset d i j v).otime = d.otime := rfl
@[simp] theorem oset_faults (d : Dev) (i j v : Nat) : (oset d i j v).faults = d.faults := rfl
@[simp] theorem oset_graft (d : Dev) (i j v : Nat) : (oset d i j v).graft = d.graft := rfl
@[simp] theorem oset_host (d : Dev) (i j v : Nat) : (oset d i j v).host = d.host := rfl
@[simp] theorem oset_mgmt (d : Dev) (i j v : Nat) : (oset d i j v).mgmt = d.mgmt := rfl
@[simp] theorem oset_live (d : Dev) (i j v : Nat) : (oset d i j v).live = d.live := rfl
@[simp] theorem oset_arb (d : Dev) (i j v : Nat) : (oset d i j v).arb = d.arb := rfl
@[simp] theorem oset_power (d : Dev) (i j v : Nat) : (oset d i j v).power = d.power := rfl

/-! ### obump -/

@[simp] theorem obump_free (d : Dev) (w i j n : Nat) : (obump d w i j n).free = d.free := rfl
@[simp] theorem obump_out (d : Dev) (w i j n : Nat) : (obump d w i j n).out = d.out := rfl
@[simp] theorem obump_cores (d : Dev) (w i j n : Nat) : (obump d w i j n).cores = d.cores := rfl
@[simp] theorem obump_clusters (d : Dev) (w i j n : Nat) : (obump d w i j n).clusters = d.clusters := rfl
@[simp] theorem obump_tallies (d : Dev) (w i j n : Nat) : (obump d w i j n).tallies = d.tallies := rfl
@[simp] theorem obump_inflight (d : Dev) (w i j n : Nat) : (obump d w i j n).inflight = d.inflight := rfl
@[simp] theorem obump_mem (d : Dev) (w i j n : Nat) : (obump d w i j n).mem = d.mem := rfl
@[simp] theorem obump_poison (d : Dev) (w i j n : Nat) : (obump d w i j n).poison = d.poison := rfl
@[simp] theorem obump_upset (d : Dev) (w i j n : Nat) : (obump d w i j n).upset = d.upset := rfl
@[simp] theorem obump_vm (d : Dev) (w i j n : Nat) : (obump d w i j n).vm = d.vm := rfl
@[simp] theorem obump_ctxs (d : Dev) (w i j n : Nat) : (obump d w i j n).ctxs = d.ctxs := rfl
@[simp] theorem obump_images (d : Dev) (w i j n : Nat) : (obump d w i j n).images = d.images := rfl
@[simp] theorem obump_nextFault (d : Dev) (w i j n : Nat) : (obump d w i j n).nextFault = d.nextFault := rfl
@[simp] theorem obump_ports (d : Dev) (w i j n : Nat) : (obump d w i j n).ports = d.ports := rfl
@[simp] theorem obump_links (d : Dev) (w i j n : Nat) : (obump d w i j n).links = d.links := rfl
@[simp] theorem obump_routes (d : Dev) (w i j n : Nat) : (obump d w i j n).routes = d.routes := rfl
@[simp] theorem obump_otime (d : Dev) (w i j n : Nat) : (obump d w i j n).otime = d.otime := rfl
@[simp] theorem obump_faults (d : Dev) (w i j n : Nat) : (obump d w i j n).faults = d.faults := rfl
@[simp] theorem obump_graft (d : Dev) (w i j n : Nat) : (obump d w i j n).graft = d.graft := rfl
@[simp] theorem obump_host (d : Dev) (w i j n : Nat) : (obump d w i j n).host = d.host := rfl
@[simp] theorem obump_mgmt (d : Dev) (w i j n : Nat) : (obump d w i j n).mgmt = d.mgmt := rfl
@[simp] theorem obump_live (d : Dev) (w i j n : Nat) : (obump d w i j n).live = d.live := rfl
@[simp] theorem obump_arb (d : Dev) (w i j n : Nat) : (obump d w i j n).arb = d.arb := rfl
@[simp] theorem obump_power (d : Dev) (w i j n : Nat) : (obump d w i j n).power = d.power := rfl

/-! ### zeroRange -/

@[simp] theorem zeroRange_free (d : Dev) (k n : Nat) : (zeroRange d k n).free = d.free := rfl
@[simp] theorem zeroRange_out (d : Dev) (k n : Nat) : (zeroRange d k n).out = d.out := rfl
@[simp] theorem zeroRange_cores (d : Dev) (k n : Nat) : (zeroRange d k n).cores = d.cores := rfl
@[simp] theorem zeroRange_clusters (d : Dev) (k n : Nat) : (zeroRange d k n).clusters = d.clusters := rfl
@[simp] theorem zeroRange_tallies (d : Dev) (k n : Nat) : (zeroRange d k n).tallies = d.tallies := rfl
@[simp] theorem zeroRange_inflight (d : Dev) (k n : Nat) : (zeroRange d k n).inflight = d.inflight := rfl
@[simp] theorem zeroRange_vm (d : Dev) (k n : Nat) : (zeroRange d k n).vm = d.vm := rfl
@[simp] theorem zeroRange_ctxs (d : Dev) (k n : Nat) : (zeroRange d k n).ctxs = d.ctxs := rfl
@[simp] theorem zeroRange_images (d : Dev) (k n : Nat) : (zeroRange d k n).images = d.images := rfl
@[simp] theorem zeroRange_nextFault (d : Dev) (k n : Nat) : (zeroRange d k n).nextFault = d.nextFault := rfl
@[simp] theorem zeroRange_ports (d : Dev) (k n : Nat) : (zeroRange d k n).ports = d.ports := rfl
@[simp] theorem zeroRange_links (d : Dev) (k n : Nat) : (zeroRange d k n).links = d.links := rfl
@[simp] theorem zeroRange_routes (d : Dev) (k n : Nat) : (zeroRange d k n).routes = d.routes := rfl
@[simp] theorem zeroRange_otime (d : Dev) (k n : Nat) : (zeroRange d k n).otime = d.otime := rfl
@[simp] theorem zeroRange_faults (d : Dev) (k n : Nat) : (zeroRange d k n).faults = d.faults := rfl
@[simp] theorem zeroRange_graft (d : Dev) (k n : Nat) : (zeroRange d k n).graft = d.graft := rfl
@[simp] theorem zeroRange_host (d : Dev) (k n : Nat) : (zeroRange d k n).host = d.host := rfl
@[simp] theorem zeroRange_mgmt (d : Dev) (k n : Nat) : (zeroRange d k n).mgmt = d.mgmt := rfl
@[simp] theorem zeroRange_obj (d : Dev) (k n : Nat) : (zeroRange d k n).obj = d.obj := rfl
@[simp] theorem zeroRange_live (d : Dev) (k n : Nat) : (zeroRange d k n).live = d.live := rfl
@[simp] theorem zeroRange_arb (d : Dev) (k n : Nat) : (zeroRange d k n).arb = d.arb := rfl
@[simp] theorem zeroRange_power (d : Dev) (k n : Nat) : (zeroRange d k n).power = d.power := rfl

/-! ### coreUpd -/

@[simp] theorem coreUpd_free (d : Dev) (c : Nat) (g : Core → Core) : (coreUpd d c g).free = d.free := rfl
@[simp] theorem coreUpd_out (d : Dev) (c : Nat) (g : Core → Core) : (coreUpd d c g).out = d.out := rfl
@[simp] theorem coreUpd_clusters (d : Dev) (c : Nat) (g : Core → Core) : (coreUpd d c g).clusters = d.clusters := rfl
@[simp] theorem coreUpd_tallies (d : Dev) (c : Nat) (g : Core → Core) : (coreUpd d c g).tallies = d.tallies := rfl
@[simp] theorem coreUpd_inflight (d : Dev) (c : Nat) (g : Core → Core) : (coreUpd d c g).inflight = d.inflight := rfl
@[simp] theorem coreUpd_mem (d : Dev) (c : Nat) (g : Core → Core) : (coreUpd d c g).mem = d.mem := rfl
@[simp] theorem coreUpd_poison (d : Dev) (c : Nat) (g : Core → Core) : (coreUpd d c g).poison = d.poison := rfl
@[simp] theorem coreUpd_upset (d : Dev) (c : Nat) (g : Core → Core) : (coreUpd d c g).upset = d.upset := rfl
@[simp] theorem coreUpd_vm (d : Dev) (c : Nat) (g : Core → Core) : (coreUpd d c g).vm = d.vm := rfl
@[simp] theorem coreUpd_ctxs (d : Dev) (c : Nat) (g : Core → Core) : (coreUpd d c g).ctxs = d.ctxs := rfl
@[simp] theorem coreUpd_images (d : Dev) (c : Nat) (g : Core → Core) : (coreUpd d c g).images = d.images := rfl
@[simp] theorem coreUpd_nextFault (d : Dev) (c : Nat) (g : Core → Core) : (coreUpd d c g).nextFault = d.nextFault := rfl
@[simp] theorem coreUpd_ports (d : Dev) (c : Nat) (g : Core → Core) : (coreUpd d c g).ports = d.ports := rfl
@[simp] theorem coreUpd_links (d : Dev) (c : Nat) (g : Core → Core) : (coreUpd d c g).links = d.links := rfl
@[simp] theorem coreUpd_routes (d : Dev) (c : Nat) (g : Core → Core) : (coreUpd d c g).routes = d.routes := rfl
@[simp] theorem coreUpd_otime (d : Dev) (c : Nat) (g : Core → Core) : (coreUpd d c g).otime = d.otime := rfl
@[simp] theorem coreUpd_faults (d : Dev) (c : Nat) (g : Core → Core) : (coreUpd d c g).faults = d.faults := rfl
@[simp] theorem coreUpd_graft (d : Dev) (c : Nat) (g : Core → Core) : (coreUpd d c g).graft = d.graft := rfl
@[simp] theorem coreUpd_host (d : Dev) (c : Nat) (g : Core → Core) : (coreUpd d c g).host = d.host := rfl
@[simp] theorem coreUpd_mgmt (d : Dev) (c : Nat) (g : Core → Core) : (coreUpd d c g).mgmt = d.mgmt := rfl
@[simp] theorem coreUpd_obj (d : Dev) (c : Nat) (g : Core → Core) : (coreUpd d c g).obj = d.obj := rfl
@[simp] theorem coreUpd_live (d : Dev) (c : Nat) (g : Core → Core) : (coreUpd d c g).live = d.live := rfl
@[simp] theorem coreUpd_arb (d : Dev) (c : Nat) (g : Core → Core) : (coreUpd d c g).arb = d.arb := rfl
@[simp] theorem coreUpd_power (d : Dev) (c : Nat) (g : Core → Core) : (coreUpd d c g).power = d.power := rfl

/-! ### clusterUpd -/

@[simp] theorem clusterUpd_free (d : Dev) (cl : Nat) (g : Cluster → Cluster) : (clusterUpd d cl g).free = d.free := rfl
@[simp] theorem clusterUpd_out (d : Dev) (cl : Nat) (g : Cluster → Cluster) : (clusterUpd d cl g).out = d.out := rfl
@[simp] theorem clusterUpd_cores (d : Dev) (cl : Nat) (g : Cluster → Cluster) : (clusterUpd d cl g).cores = d.cores := rfl
@[simp] theorem clusterUpd_tallies (d : Dev) (cl : Nat) (g : Cluster → Cluster) : (clusterUpd d cl g).tallies = d.tallies := rfl
@[simp] theorem clusterUpd_inflight (d : Dev) (cl : Nat) (g : Cluster → Cluster) : (clusterUpd d cl g).inflight = d.inflight := rfl
@[simp] theorem clusterUpd_mem (d : Dev) (cl : Nat) (g : Cluster → Cluster) : (clusterUpd d cl g).mem = d.mem := rfl
@[simp] theorem clusterUpd_poison (d : Dev) (cl : Nat) (g : Cluster → Cluster) : (clusterUpd d cl g).poison = d.poison := rfl
@[simp] theorem clusterUpd_upset (d : Dev) (cl : Nat) (g : Cluster → Cluster) : (clusterUpd d cl g).upset = d.upset := rfl
@[simp] theorem clusterUpd_vm (d : Dev) (cl : Nat) (g : Cluster → Cluster) : (clusterUpd d cl g).vm = d.vm := rfl
@[simp] theorem clusterUpd_ctxs (d : Dev) (cl : Nat) (g : Cluster → Cluster) : (clusterUpd d cl g).ctxs = d.ctxs := rfl
@[simp] theorem clusterUpd_images (d : Dev) (cl : Nat) (g : Cluster → Cluster) : (clusterUpd d cl g).images = d.images := rfl
@[simp] theorem clusterUpd_nextFault (d : Dev) (cl : Nat) (g : Cluster → Cluster) : (clusterUpd d cl g).nextFault = d.nextFault := rfl
@[simp] theorem clusterUpd_ports (d : Dev) (cl : Nat) (g : Cluster → Cluster) : (clusterUpd d cl g).ports = d.ports := rfl
@[simp] theorem clusterUpd_links (d : Dev) (cl : Nat) (g : Cluster → Cluster) : (clusterUpd d cl g).links = d.links := rfl
@[simp] theorem clusterUpd_routes (d : Dev) (cl : Nat) (g : Cluster → Cluster) : (clusterUpd d cl g).routes = d.routes := rfl
@[simp] theorem clusterUpd_otime (d : Dev) (cl : Nat) (g : Cluster → Cluster) : (clusterUpd d cl g).otime = d.otime := rfl
@[simp] theorem clusterUpd_faults (d : Dev) (cl : Nat) (g : Cluster → Cluster) : (clusterUpd d cl g).faults = d.faults := rfl
@[simp] theorem clusterUpd_graft (d : Dev) (cl : Nat) (g : Cluster → Cluster) : (clusterUpd d cl g).graft = d.graft := rfl
@[simp] theorem clusterUpd_host (d : Dev) (cl : Nat) (g : Cluster → Cluster) : (clusterUpd d cl g).host = d.host := rfl
@[simp] theorem clusterUpd_mgmt (d : Dev) (cl : Nat) (g : Cluster → Cluster) : (clusterUpd d cl g).mgmt = d.mgmt := rfl
@[simp] theorem clusterUpd_obj (d : Dev) (cl : Nat) (g : Cluster → Cluster) : (clusterUpd d cl g).obj = d.obj := rfl
@[simp] theorem clusterUpd_live (d : Dev) (cl : Nat) (g : Cluster → Cluster) : (clusterUpd d cl g).live = d.live := rfl
@[simp] theorem clusterUpd_arb (d : Dev) (cl : Nat) (g : Cluster → Cluster) : (clusterUpd d cl g).arb = d.arb := rfl
@[simp] theorem clusterUpd_power (d : Dev) (cl : Nat) (g : Cluster → Cluster) : (clusterUpd d cl g).power = d.power := rfl

/-! ### ctxUpd -/

@[simp] theorem ctxUpd_free (d : Dev) (x : Nat) (g : Ctx → Ctx) : (ctxUpd d x g).free = d.free := rfl
@[simp] theorem ctxUpd_out (d : Dev) (x : Nat) (g : Ctx → Ctx) : (ctxUpd d x g).out = d.out := rfl
@[simp] theorem ctxUpd_cores (d : Dev) (x : Nat) (g : Ctx → Ctx) : (ctxUpd d x g).cores = d.cores := rfl
@[simp] theorem ctxUpd_clusters (d : Dev) (x : Nat) (g : Ctx → Ctx) : (ctxUpd d x g).clusters = d.clusters := rfl
@[simp] theorem ctxUpd_tallies (d : Dev) (x : Nat) (g : Ctx → Ctx) : (ctxUpd d x g).tallies = d.tallies := rfl
@[simp] theorem ctxUpd_inflight (d : Dev) (x : Nat) (g : Ctx → Ctx) : (ctxUpd d x g).inflight = d.inflight := rfl
@[simp] theorem ctxUpd_mem (d : Dev) (x : Nat) (g : Ctx → Ctx) : (ctxUpd d x g).mem = d.mem := rfl
@[simp] theorem ctxUpd_poison (d : Dev) (x : Nat) (g : Ctx → Ctx) : (ctxUpd d x g).poison = d.poison := rfl
@[simp] theorem ctxUpd_upset (d : Dev) (x : Nat) (g : Ctx → Ctx) : (ctxUpd d x g).upset = d.upset := rfl
@[simp] theorem ctxUpd_vm (d : Dev) (x : Nat) (g : Ctx → Ctx) : (ctxUpd d x g).vm = d.vm := rfl
@[simp] theorem ctxUpd_images (d : Dev) (x : Nat) (g : Ctx → Ctx) : (ctxUpd d x g).images = d.images := rfl
@[simp] theorem ctxUpd_nextFault (d : Dev) (x : Nat) (g : Ctx → Ctx) : (ctxUpd d x g).nextFault = d.nextFault := rfl
@[simp] theorem ctxUpd_ports (d : Dev) (x : Nat) (g : Ctx → Ctx) : (ctxUpd d x g).ports = d.ports := rfl
@[simp] theorem ctxUpd_links (d : Dev) (x : Nat) (g : Ctx → Ctx) : (ctxUpd d x g).links = d.links := rfl
@[simp] theorem ctxUpd_routes (d : Dev) (x : Nat) (g : Ctx → Ctx) : (ctxUpd d x g).routes = d.routes := rfl
@[simp] theorem ctxUpd_otime (d : Dev) (x : Nat) (g : Ctx → Ctx) : (ctxUpd d x g).otime = d.otime := rfl
@[simp] theorem ctxUpd_faults (d : Dev) (x : Nat) (g : Ctx → Ctx) : (ctxUpd d x g).faults = d.faults := rfl
@[simp] theorem ctxUpd_graft (d : Dev) (x : Nat) (g : Ctx → Ctx) : (ctxUpd d x g).graft = d.graft := rfl
@[simp] theorem ctxUpd_host (d : Dev) (x : Nat) (g : Ctx → Ctx) : (ctxUpd d x g).host = d.host := rfl
@[simp] theorem ctxUpd_mgmt (d : Dev) (x : Nat) (g : Ctx → Ctx) : (ctxUpd d x g).mgmt = d.mgmt := rfl
@[simp] theorem ctxUpd_obj (d : Dev) (x : Nat) (g : Ctx → Ctx) : (ctxUpd d x g).obj = d.obj := rfl
@[simp] theorem ctxUpd_live (d : Dev) (x : Nat) (g : Ctx → Ctx) : (ctxUpd d x g).live = d.live := rfl
@[simp] theorem ctxUpd_arb (d : Dev) (x : Nat) (g : Ctx → Ctx) : (ctxUpd d x g).arb = d.arb := rfl
@[simp] theorem ctxUpd_power (d : Dev) (x : Nat) (g : Ctx → Ctx) : (ctxUpd d x g).power = d.power := rfl

/-! ### linkUpd -/

@[simp] theorem linkUpd_free (d : Dev) (l : Nat) (g : Link → Link) : (linkUpd d l g).free = d.free := rfl
@[simp] theorem linkUpd_out (d : Dev) (l : Nat) (g : Link → Link) : (linkUpd d l g).out = d.out := rfl
@[simp] theorem linkUpd_cores (d : Dev) (l : Nat) (g : Link → Link) : (linkUpd d l g).cores = d.cores := rfl
@[simp] theorem linkUpd_clusters (d : Dev) (l : Nat) (g : Link → Link) : (linkUpd d l g).clusters = d.clusters := rfl
@[simp] theorem linkUpd_tallies (d : Dev) (l : Nat) (g : Link → Link) : (linkUpd d l g).tallies = d.tallies := rfl
@[simp] theorem linkUpd_inflight (d : Dev) (l : Nat) (g : Link → Link) : (linkUpd d l g).inflight = d.inflight := rfl
@[simp] theorem linkUpd_mem (d : Dev) (l : Nat) (g : Link → Link) : (linkUpd d l g).mem = d.mem := rfl
@[simp] theorem linkUpd_poison (d : Dev) (l : Nat) (g : Link → Link) : (linkUpd d l g).poison = d.poison := rfl
@[simp] theorem linkUpd_upset (d : Dev) (l : Nat) (g : Link → Link) : (linkUpd d l g).upset = d.upset := rfl
@[simp] theorem linkUpd_vm (d : Dev) (l : Nat) (g : Link → Link) : (linkUpd d l g).vm = d.vm := rfl
@[simp] theorem linkUpd_ctxs (d : Dev) (l : Nat) (g : Link → Link) : (linkUpd d l g).ctxs = d.ctxs := rfl
@[simp] theorem linkUpd_images (d : Dev) (l : Nat) (g : Link → Link) : (linkUpd d l g).images = d.images := rfl
@[simp] theorem linkUpd_nextFault (d : Dev) (l : Nat) (g : Link → Link) : (linkUpd d l g).nextFault = d.nextFault := rfl
@[simp] theorem linkUpd_ports (d : Dev) (l : Nat) (g : Link → Link) : (linkUpd d l g).ports = d.ports := rfl
@[simp] theorem linkUpd_routes (d : Dev) (l : Nat) (g : Link → Link) : (linkUpd d l g).routes = d.routes := rfl
@[simp] theorem linkUpd_otime (d : Dev) (l : Nat) (g : Link → Link) : (linkUpd d l g).otime = d.otime := rfl
@[simp] theorem linkUpd_faults (d : Dev) (l : Nat) (g : Link → Link) : (linkUpd d l g).faults = d.faults := rfl
@[simp] theorem linkUpd_graft (d : Dev) (l : Nat) (g : Link → Link) : (linkUpd d l g).graft = d.graft := rfl
@[simp] theorem linkUpd_host (d : Dev) (l : Nat) (g : Link → Link) : (linkUpd d l g).host = d.host := rfl
@[simp] theorem linkUpd_mgmt (d : Dev) (l : Nat) (g : Link → Link) : (linkUpd d l g).mgmt = d.mgmt := rfl
@[simp] theorem linkUpd_obj (d : Dev) (l : Nat) (g : Link → Link) : (linkUpd d l g).obj = d.obj := rfl
@[simp] theorem linkUpd_live (d : Dev) (l : Nat) (g : Link → Link) : (linkUpd d l g).live = d.live := rfl
@[simp] theorem linkUpd_arb (d : Dev) (l : Nat) (g : Link → Link) : (linkUpd d l g).arb = d.arb := rfl
@[simp] theorem linkUpd_power (d : Dev) (l : Nat) (g : Link → Link) : (linkUpd d l g).power = d.power := rfl

/-! ### portUpd -/

@[simp] theorem portUpd_free (d : Dev) (p : Nat) (g : Port → Port) : (portUpd d p g).free = d.free := rfl
@[simp] theorem portUpd_out (d : Dev) (p : Nat) (g : Port → Port) : (portUpd d p g).out = d.out := rfl
@[simp] theorem portUpd_cores (d : Dev) (p : Nat) (g : Port → Port) : (portUpd d p g).cores = d.cores := rfl
@[simp] theorem portUpd_clusters (d : Dev) (p : Nat) (g : Port → Port) : (portUpd d p g).clusters = d.clusters := rfl
@[simp] theorem portUpd_tallies (d : Dev) (p : Nat) (g : Port → Port) : (portUpd d p g).tallies = d.tallies := rfl
@[simp] theorem portUpd_inflight (d : Dev) (p : Nat) (g : Port → Port) : (portUpd d p g).inflight = d.inflight := rfl
@[simp] theorem portUpd_mem (d : Dev) (p : Nat) (g : Port → Port) : (portUpd d p g).mem = d.mem := rfl
@[simp] theorem portUpd_poison (d : Dev) (p : Nat) (g : Port → Port) : (portUpd d p g).poison = d.poison := rfl
@[simp] theorem portUpd_upset (d : Dev) (p : Nat) (g : Port → Port) : (portUpd d p g).upset = d.upset := rfl
@[simp] theorem portUpd_vm (d : Dev) (p : Nat) (g : Port → Port) : (portUpd d p g).vm = d.vm := rfl
@[simp] theorem portUpd_ctxs (d : Dev) (p : Nat) (g : Port → Port) : (portUpd d p g).ctxs = d.ctxs := rfl
@[simp] theorem portUpd_images (d : Dev) (p : Nat) (g : Port → Port) : (portUpd d p g).images = d.images := rfl
@[simp] theorem portUpd_nextFault (d : Dev) (p : Nat) (g : Port → Port) : (portUpd d p g).nextFault = d.nextFault := rfl
@[simp] theorem portUpd_links (d : Dev) (p : Nat) (g : Port → Port) : (portUpd d p g).links = d.links := rfl
@[simp] theorem portUpd_routes (d : Dev) (p : Nat) (g : Port → Port) : (portUpd d p g).routes = d.routes := rfl
@[simp] theorem portUpd_otime (d : Dev) (p : Nat) (g : Port → Port) : (portUpd d p g).otime = d.otime := rfl
@[simp] theorem portUpd_faults (d : Dev) (p : Nat) (g : Port → Port) : (portUpd d p g).faults = d.faults := rfl
@[simp] theorem portUpd_graft (d : Dev) (p : Nat) (g : Port → Port) : (portUpd d p g).graft = d.graft := rfl
@[simp] theorem portUpd_host (d : Dev) (p : Nat) (g : Port → Port) : (portUpd d p g).host = d.host := rfl
@[simp] theorem portUpd_mgmt (d : Dev) (p : Nat) (g : Port → Port) : (portUpd d p g).mgmt = d.mgmt := rfl
@[simp] theorem portUpd_obj (d : Dev) (p : Nat) (g : Port → Port) : (portUpd d p g).obj = d.obj := rfl
@[simp] theorem portUpd_live (d : Dev) (p : Nat) (g : Port → Port) : (portUpd d p g).live = d.live := rfl
@[simp] theorem portUpd_arb (d : Dev) (p : Nat) (g : Port → Port) : (portUpd d p g).arb = d.arb := rfl
@[simp] theorem portUpd_power (d : Dev) (p : Nat) (g : Port → Port) : (portUpd d p g).power = d.power := rfl

/-! ### sqUpd -/

@[simp] theorem sqUpd_free (d : Dev) (x : Nat) (g : Sq → Sq) : (sqUpd d x g).free = d.free := rfl
@[simp] theorem sqUpd_out (d : Dev) (x : Nat) (g : Sq → Sq) : (sqUpd d x g).out = d.out := rfl
@[simp] theorem sqUpd_cores (d : Dev) (x : Nat) (g : Sq → Sq) : (sqUpd d x g).cores = d.cores := rfl
@[simp] theorem sqUpd_clusters (d : Dev) (x : Nat) (g : Sq → Sq) : (sqUpd d x g).clusters = d.clusters := rfl
@[simp] theorem sqUpd_tallies (d : Dev) (x : Nat) (g : Sq → Sq) : (sqUpd d x g).tallies = d.tallies := rfl
@[simp] theorem sqUpd_inflight (d : Dev) (x : Nat) (g : Sq → Sq) : (sqUpd d x g).inflight = d.inflight := rfl
@[simp] theorem sqUpd_mem (d : Dev) (x : Nat) (g : Sq → Sq) : (sqUpd d x g).mem = d.mem := rfl
@[simp] theorem sqUpd_poison (d : Dev) (x : Nat) (g : Sq → Sq) : (sqUpd d x g).poison = d.poison := rfl
@[simp] theorem sqUpd_upset (d : Dev) (x : Nat) (g : Sq → Sq) : (sqUpd d x g).upset = d.upset := rfl
@[simp] theorem sqUpd_vm (d : Dev) (x : Nat) (g : Sq → Sq) : (sqUpd d x g).vm = d.vm := rfl
@[simp] theorem sqUpd_ctxs (d : Dev) (x : Nat) (g : Sq → Sq) : (sqUpd d x g).ctxs = d.ctxs := rfl
@[simp] theorem sqUpd_images (d : Dev) (x : Nat) (g : Sq → Sq) : (sqUpd d x g).images = d.images := rfl
@[simp] theorem sqUpd_nextFault (d : Dev) (x : Nat) (g : Sq → Sq) : (sqUpd d x g).nextFault = d.nextFault := rfl
@[simp] theorem sqUpd_ports (d : Dev) (x : Nat) (g : Sq → Sq) : (sqUpd d x g).ports = d.ports := rfl
@[simp] theorem sqUpd_links (d : Dev) (x : Nat) (g : Sq → Sq) : (sqUpd d x g).links = d.links := rfl
@[simp] theorem sqUpd_routes (d : Dev) (x : Nat) (g : Sq → Sq) : (sqUpd d x g).routes = d.routes := rfl
@[simp] theorem sqUpd_otime (d : Dev) (x : Nat) (g : Sq → Sq) : (sqUpd d x g).otime = d.otime := rfl
@[simp] theorem sqUpd_faults (d : Dev) (x : Nat) (g : Sq → Sq) : (sqUpd d x g).faults = d.faults := rfl
@[simp] theorem sqUpd_graft (d : Dev) (x : Nat) (g : Sq → Sq) : (sqUpd d x g).graft = d.graft := rfl
@[simp] theorem sqUpd_mgmt (d : Dev) (x : Nat) (g : Sq → Sq) : (sqUpd d x g).mgmt = d.mgmt := rfl
@[simp] theorem sqUpd_obj (d : Dev) (x : Nat) (g : Sq → Sq) : (sqUpd d x g).obj = d.obj := rfl
@[simp] theorem sqUpd_live (d : Dev) (x : Nat) (g : Sq → Sq) : (sqUpd d x g).live = d.live := rfl
@[simp] theorem sqUpd_arb (d : Dev) (x : Nat) (g : Sq → Sq) : (sqUpd d x g).arb = d.arb := rfl
@[simp] theorem sqUpd_power (d : Dev) (x : Nat) (g : Sq → Sq) : (sqUpd d x g).power = d.power := rfl

/-! ### powerUpd -/

@[simp] theorem powerUpd_free (d : Dev) (g : Power → Power) : (powerUpd d g).free = d.free := rfl
@[simp] theorem powerUpd_out (d : Dev) (g : Power → Power) : (powerUpd d g).out = d.out := rfl
@[simp] theorem powerUpd_cores (d : Dev) (g : Power → Power) : (powerUpd d g).cores = d.cores := rfl
@[simp] theorem powerUpd_clusters (d : Dev) (g : Power → Power) : (powerUpd d g).clusters = d.clusters := rfl
@[simp] theorem powerUpd_tallies (d : Dev) (g : Power → Power) : (powerUpd d g).tallies = d.tallies := rfl
@[simp] theorem powerUpd_inflight (d : Dev) (g : Power → Power) : (powerUpd d g).inflight = d.inflight := rfl
@[simp] theorem powerUpd_mem (d : Dev) (g : Power → Power) : (powerUpd d g).mem = d.mem := rfl
@[simp] theorem powerUpd_poison (d : Dev) (g : Power → Power) : (powerUpd d g).poison = d.poison := rfl
@[simp] theorem powerUpd_upset (d : Dev) (g : Power → Power) : (powerUpd d g).upset = d.upset := rfl
@[simp] theorem powerUpd_vm (d : Dev) (g : Power → Power) : (powerUpd d g).vm = d.vm := rfl
@[simp] theorem powerUpd_ctxs (d : Dev) (g : Power → Power) : (powerUpd d g).ctxs = d.ctxs := rfl
@[simp] theorem powerUpd_images (d : Dev) (g : Power → Power) : (powerUpd d g).images = d.images := rfl
@[simp] theorem powerUpd_nextFault (d : Dev) (g : Power → Power) : (powerUpd d g).nextFault = d.nextFault := rfl
@[simp] theorem powerUpd_ports (d : Dev) (g : Power → Power) : (powerUpd d g).ports = d.ports := rfl
@[simp] theorem powerUpd_links (d : Dev) (g : Power → Power) : (powerUpd d g).links = d.links := rfl
@[simp] theorem powerUpd_routes (d : Dev) (g : Power → Power) : (powerUpd d g).routes = d.routes := rfl
@[simp] theorem powerUpd_otime (d : Dev) (g : Power → Power) : (powerUpd d g).otime = d.otime := rfl
@[simp] theorem powerUpd_faults (d : Dev) (g : Power → Power) : (powerUpd d g).faults = d.faults := rfl
@[simp] theorem powerUpd_graft (d : Dev) (g : Power → Power) : (powerUpd d g).graft = d.graft := rfl
@[simp] theorem powerUpd_host (d : Dev) (g : Power → Power) : (powerUpd d g).host = d.host := rfl
@[simp] theorem powerUpd_mgmt (d : Dev) (g : Power → Power) : (powerUpd d g).mgmt = d.mgmt := rfl
@[simp] theorem powerUpd_obj (d : Dev) (g : Power → Power) : (powerUpd d g).obj = d.obj := rfl
@[simp] theorem powerUpd_live (d : Dev) (g : Power → Power) : (powerUpd d g).live = d.live := rfl
@[simp] theorem powerUpd_arb (d : Dev) (g : Power → Power) : (powerUpd d g).arb = d.arb := rfl

/-! ### otimeUpd -/

@[simp] theorem otimeUpd_free (d : Dev) (g : OTime → OTime) : (otimeUpd d g).free = d.free := rfl
@[simp] theorem otimeUpd_out (d : Dev) (g : OTime → OTime) : (otimeUpd d g).out = d.out := rfl
@[simp] theorem otimeUpd_cores (d : Dev) (g : OTime → OTime) : (otimeUpd d g).cores = d.cores := rfl
@[simp] theorem otimeUpd_clusters (d : Dev) (g : OTime → OTime) : (otimeUpd d g).clusters = d.clusters := rfl
@[simp] theorem otimeUpd_tallies (d : Dev) (g : OTime → OTime) : (otimeUpd d g).tallies = d.tallies := rfl
@[simp] theorem otimeUpd_inflight (d : Dev) (g : OTime → OTime) : (otimeUpd d g).inflight = d.inflight := rfl
@[simp] theorem otimeUpd_mem (d : Dev) (g : OTime → OTime) : (otimeUpd d g).mem = d.mem := rfl
@[simp] theorem otimeUpd_poison (d : Dev) (g : OTime → OTime) : (otimeUpd d g).poison = d.poison := rfl
@[simp] theorem otimeUpd_upset (d : Dev) (g : OTime → OTime) : (otimeUpd d g).upset = d.upset := rfl
@[simp] theorem otimeUpd_vm (d : Dev) (g : OTime → OTime) : (otimeUpd d g).vm = d.vm := rfl
@[simp] theorem otimeUpd_ctxs (d : Dev) (g : OTime → OTime) : (otimeUpd d g).ctxs = d.ctxs := rfl
@[simp] theorem otimeUpd_images (d : Dev) (g : OTime → OTime) : (otimeUpd d g).images = d.images := rfl
@[simp] theorem otimeUpd_nextFault (d : Dev) (g : OTime → OTime) : (otimeUpd d g).nextFault = d.nextFault := rfl
@[simp] theorem otimeUpd_ports (d : Dev) (g : OTime → OTime) : (otimeUpd d g).ports = d.ports := rfl
@[simp] theorem otimeUpd_links (d : Dev) (g : OTime → OTime) : (otimeUpd d g).links = d.links := rfl
@[simp] theorem otimeUpd_routes (d : Dev) (g : OTime → OTime) : (otimeUpd d g).routes = d.routes := rfl
@[simp] theorem otimeUpd_faults (d : Dev) (g : OTime → OTime) : (otimeUpd d g).faults = d.faults := rfl
@[simp] theorem otimeUpd_graft (d : Dev) (g : OTime → OTime) : (otimeUpd d g).graft = d.graft := rfl
@[simp] theorem otimeUpd_host (d : Dev) (g : OTime → OTime) : (otimeUpd d g).host = d.host := rfl
@[simp] theorem otimeUpd_mgmt (d : Dev) (g : OTime → OTime) : (otimeUpd d g).mgmt = d.mgmt := rfl
@[simp] theorem otimeUpd_obj (d : Dev) (g : OTime → OTime) : (otimeUpd d g).obj = d.obj := rfl
@[simp] theorem otimeUpd_live (d : Dev) (g : OTime → OTime) : (otimeUpd d g).live = d.live := rfl
@[simp] theorem otimeUpd_arb (d : Dev) (g : OTime → OTime) : (otimeUpd d g).arb = d.arb := rfl
@[simp] theorem otimeUpd_power (d : Dev) (g : OTime → OTime) : (otimeUpd d g).power = d.power := rfl

/-! ### graftUpd -/

@[simp] theorem graftUpd_free (d : Dev) (g : Graft → Graft) : (graftUpd d g).free = d.free := rfl
@[simp] theorem graftUpd_out (d : Dev) (g : Graft → Graft) : (graftUpd d g).out = d.out := rfl
@[simp] theorem graftUpd_cores (d : Dev) (g : Graft → Graft) : (graftUpd d g).cores = d.cores := rfl
@[simp] theorem graftUpd_clusters (d : Dev) (g : Graft → Graft) : (graftUpd d g).clusters = d.clusters := rfl
@[simp] theorem graftUpd_tallies (d : Dev) (g : Graft → Graft) : (graftUpd d g).tallies = d.tallies := rfl
@[simp] theorem graftUpd_inflight (d : Dev) (g : Graft → Graft) : (graftUpd d g).inflight = d.inflight := rfl
@[simp] theorem graftUpd_mem (d : Dev) (g : Graft → Graft) : (graftUpd d g).mem = d.mem := rfl
@[simp] theorem graftUpd_poison (d : Dev) (g : Graft → Graft) : (graftUpd d g).poison = d.poison := rfl
@[simp] theorem graftUpd_upset (d : Dev) (g : Graft → Graft) : (graftUpd d g).upset = d.upset := rfl
@[simp] theorem graftUpd_vm (d : Dev) (g : Graft → Graft) : (graftUpd d g).vm = d.vm := rfl
@[simp] theorem graftUpd_ctxs (d : Dev) (g : Graft → Graft) : (graftUpd d g).ctxs = d.ctxs := rfl
@[simp] theorem graftUpd_images (d : Dev) (g : Graft → Graft) : (graftUpd d g).images = d.images := rfl
@[simp] theorem graftUpd_nextFault (d : Dev) (g : Graft → Graft) : (graftUpd d g).nextFault = d.nextFault := rfl
@[simp] theorem graftUpd_ports (d : Dev) (g : Graft → Graft) : (graftUpd d g).ports = d.ports := rfl
@[simp] theorem graftUpd_links (d : Dev) (g : Graft → Graft) : (graftUpd d g).links = d.links := rfl
@[simp] theorem graftUpd_routes (d : Dev) (g : Graft → Graft) : (graftUpd d g).routes = d.routes := rfl
@[simp] theorem graftUpd_otime (d : Dev) (g : Graft → Graft) : (graftUpd d g).otime = d.otime := rfl
@[simp] theorem graftUpd_faults (d : Dev) (g : Graft → Graft) : (graftUpd d g).faults = d.faults := rfl
@[simp] theorem graftUpd_host (d : Dev) (g : Graft → Graft) : (graftUpd d g).host = d.host := rfl
@[simp] theorem graftUpd_mgmt (d : Dev) (g : Graft → Graft) : (graftUpd d g).mgmt = d.mgmt := rfl
@[simp] theorem graftUpd_obj (d : Dev) (g : Graft → Graft) : (graftUpd d g).obj = d.obj := rfl
@[simp] theorem graftUpd_live (d : Dev) (g : Graft → Graft) : (graftUpd d g).live = d.live := rfl
@[simp] theorem graftUpd_arb (d : Dev) (g : Graft → Graft) : (graftUpd d g).arb = d.arb := rfl
@[simp] theorem graftUpd_power (d : Dev) (g : Graft → Graft) : (graftUpd d g).power = d.power := rfl

/-! ### hostSet -/

@[simp] theorem hostSet_free (d : Dev) (g : HostIf → HostIf) : (hostSet d g).free = d.free := rfl
@[simp] theorem hostSet_out (d : Dev) (g : HostIf → HostIf) : (hostSet d g).out = d.out := rfl
@[simp] theorem hostSet_cores (d : Dev) (g : HostIf → HostIf) : (hostSet d g).cores = d.cores := rfl
@[simp] theorem hostSet_clusters (d : Dev) (g : HostIf → HostIf) : (hostSet d g).clusters = d.clusters := rfl
@[simp] theorem hostSet_tallies (d : Dev) (g : HostIf → HostIf) : (hostSet d g).tallies = d.tallies := rfl
@[simp] theorem hostSet_inflight (d : Dev) (g : HostIf → HostIf) : (hostSet d g).inflight = d.inflight := rfl
@[simp] theorem hostSet_mem (d : Dev) (g : HostIf → HostIf) : (hostSet d g).mem = d.mem := rfl
@[simp] theorem hostSet_poison (d : Dev) (g : HostIf → HostIf) : (hostSet d g).poison = d.poison := rfl
@[simp] theorem hostSet_upset (d : Dev) (g : HostIf → HostIf) : (hostSet d g).upset = d.upset := rfl
@[simp] theorem hostSet_vm (d : Dev) (g : HostIf → HostIf) : (hostSet d g).vm = d.vm := rfl
@[simp] theorem hostSet_ctxs (d : Dev) (g : HostIf → HostIf) : (hostSet d g).ctxs = d.ctxs := rfl
@[simp] theorem hostSet_images (d : Dev) (g : HostIf → HostIf) : (hostSet d g).images = d.images := rfl
@[simp] theorem hostSet_nextFault (d : Dev) (g : HostIf → HostIf) : (hostSet d g).nextFault = d.nextFault := rfl
@[simp] theorem hostSet_ports (d : Dev) (g : HostIf → HostIf) : (hostSet d g).ports = d.ports := rfl
@[simp] theorem hostSet_links (d : Dev) (g : HostIf → HostIf) : (hostSet d g).links = d.links := rfl
@[simp] theorem hostSet_routes (d : Dev) (g : HostIf → HostIf) : (hostSet d g).routes = d.routes := rfl
@[simp] theorem hostSet_otime (d : Dev) (g : HostIf → HostIf) : (hostSet d g).otime = d.otime := rfl
@[simp] theorem hostSet_faults (d : Dev) (g : HostIf → HostIf) : (hostSet d g).faults = d.faults := rfl
@[simp] theorem hostSet_graft (d : Dev) (g : HostIf → HostIf) : (hostSet d g).graft = d.graft := rfl
@[simp] theorem hostSet_mgmt (d : Dev) (g : HostIf → HostIf) : (hostSet d g).mgmt = d.mgmt := rfl
@[simp] theorem hostSet_obj (d : Dev) (g : HostIf → HostIf) : (hostSet d g).obj = d.obj := rfl
@[simp] theorem hostSet_live (d : Dev) (g : HostIf → HostIf) : (hostSet d g).live = d.live := rfl
@[simp] theorem hostSet_arb (d : Dev) (g : HostIf → HostIf) : (hostSet d g).arb = d.arb := rfl
@[simp] theorem hostSet_power (d : Dev) (g : HostIf → HostIf) : (hostSet d g).power = d.power := rfl

end Sys2Proof.Machine
end

