-- ==== Sys2Proof/Laws/Units.lean ====
section
/-! SUPPORT. Reading a unit of the block after writing one, the registers of a core, and what the operations that every meaning goes
through can answer. -/

namespace Sys2Proof.Machine

/-! ### A unit after a write of a unit -/

theorem coreOf_coreSet {d : Dev} (h : Rising d.cores) (i : Nat) (v : Core) (j : Nat) :
    coreOf (coreSet d i v) j = if j = i then v else coreOf d j := look_put h _ i v j

theorem coreOf_coreUpd {d : Dev} (h : Rising d.cores) (i : Nat) (g : Core → Core) (j : Nat) :
    coreOf (coreUpd d i g) j = if j = i then g (coreOf d i) else coreOf d j := look_put h _ i _ j

theorem clusterOf_clusterSet {d : Dev} (h : Rising d.clusters) (i : Nat) (v : Cluster) (j : Nat) :
    clusterOf (clusterSet d i v) j = if j = i then v else clusterOf d j := look_put h _ i v j

theorem clusterOf_clusterUpd {d : Dev} (h : Rising d.clusters) (i : Nat) (g : Cluster → Cluster) (j : Nat) :
    clusterOf (clusterUpd d i g) j = if j = i then g (clusterOf d i) else clusterOf d j := look_put h _ i _ j

theorem ctxOf_ctxSet {d : Dev} (h : Rising d.ctxs) (i : Nat) (v : Ctx) (j : Nat) :
    ctxOf (ctxSet d i v) j = if j = i then v else ctxOf d j := look_put h _ i v j

theorem ctxOf_ctxUpd {d : Dev} (h : Rising d.ctxs) (i : Nat) (g : Ctx → Ctx) (j : Nat) :
    ctxOf (ctxUpd d i g) j = if j = i then g (ctxOf d i) else ctxOf d j := look_put h _ i _ j

theorem linkOf_linkSet {d : Dev} (h : Rising d.links) (i : Nat) (v : Link) (j : Nat) :
    linkOf (linkSet d i v) j = if j = i then v else linkOf d j := look_put h _ i v j

theorem linkOf_linkUpd {d : Dev} (h : Rising d.links) (i : Nat) (g : Link → Link) (j : Nat) :
    linkOf (linkUpd d i g) j = if j = i then g (linkOf d i) else linkOf d j := look_put h _ i _ j

theorem portOf_portSet {d : Dev} (h : Rising d.ports) (i : Nat) (v : Port) (j : Nat) :
    portOf (portSet d i v) j = if j = i then v else portOf d j := look_put h _ i v j

theorem portOf_portUpd {d : Dev} (h : Rising d.ports) (i : Nat) (g : Port → Port) (j : Nat) :
    portOf (portUpd d i g) j = if j = i then g (portOf d i) else portOf d j := look_put h _ i _ j

theorem sqOf_sqSet {d : Dev} (h : Rising d.host.sqs) (i : Nat) (v : Sq) (j : Nat) :
    sqOf (sqSet d i v) j = if j = i then v else sqOf d j := look_put h _ i v j

theorem sqOf_sqUpd {d : Dev} (h : Rising d.host.sqs) (i : Nat) (g : Sq → Sq) (j : Nat) :
    sqOf (sqUpd d i g) j = if j = i then g (sqOf d i) else sqOf d j := look_put h _ i _ j

theorem tallyOf_tallySet {d : Dev} (h : Rising d.tallies) (i : Nat) (v : Tally) (j : Nat) :
    tallyOf (tallySet d i v) j = if j = i then v else tallyOf d j := look_put h _ i v j

/-- A write at another key is not seen, whatever an unlisted key reads as. -/
theorem look_put_ne {α : Type} [DecidableEq α] {t : Table α} (h : Rising t) (d d' : α) (k : Nat) (v : α) (j : Nat) (hj : j ≠ k) :
    look d (put d' t k v) j = look d t j := by
  induction t with
  | nil =>
    unfold put
    split
    · rfl
    · rw [look_cons]
      have : k ≠ j := fun e => hj e.symm
      simp [this, look]
  | cons a r ih =>
    obtain ⟨k', v'⟩ := a
    have hk : k ≠ j := fun e => hj e.symm
    have below : ∀ e ∈ r, k' < e.1 := (List.pairwise_cons.1 h).1
    unfold put
    split
    · rename_i e
      subst e
      rw [look_cons d k' v' r j, if_neg hk]
      split
      · split
        · rename_i hlt
          exact look_below fun e he => Nat.lt_trans hlt (below e he)
        · rfl
      · rw [look_cons, if_neg hk]
    · split
      · rename_i hlt
        split
        · rfl
        · rw [look_cons d k v, look_cons d k' v' r j, if_neg hk]
          split
          · rename_i hjk
            have h1 : k' ≠ j := by omega
            have h2 : j < k' := by omega
            simp [h1, h2]
          · rfl
      · rw [look_cons, look_cons]
        split
        · rfl
        · split
          · rfl
          · exact ih (Rising.tail h)

theorem og_oset {d : Dev} (h : Rising d.obj) (i j v a b : Nat) :
    og (oset d i j v) a b = if okey a b = okey i j then v else og d a b := by
  unfold og oset
  show look (objDefault (okey a b)) (put (objDefault (okey i j)) d.obj (okey i j) v) (okey a b) = _
  by_cases e : okey a b = okey i j
  · simp only [e, if_true]
    rw [look_put h]
    simp
  · rw [look_put_ne h _ _ _ _ _ e]
    simp [e]

/-- Two entries of the object dictionary share a key only where they are the same entry. -/
theorem okey_inj {i j a b : Nat} (hj : j < 256) (hb : b < 256) : okey a b = okey i j ↔ a = i ∧ b = j := by
  unfold okey
  omega

/-! ### Registers of a core (R176) -/

@[simp] theorem getX_zero (k : Core) : getX k 0 = 0 := by simp [getX]

theorem getX_setX {k : Core} (h : Rising k.x) (r : BitVec 5) (v : Word) (q : BitVec 5) :
    getX (setX k r v) q = if q = r ∧ q ≠ 0 then v else getX k q := by
  unfold getX setX
  by_cases hq : q = 0
  · simp [hq]
  · by_cases hr : r = 0
    · subst hr
      rw [if_pos rfl, if_neg hq, if_neg (fun c => c.2 c.1)]
    · simp only [hq, hr, if_false, look_put h]
      by_cases e : q = r
      · subst e
        simp only [if_true, true_and, ne_eq, if_pos hq]
      · have : q.toNat ≠ r.toNat := fun c => e (BitVec.eq_of_toNat_eq c)
        simp [e, this]

theorem getV_setV {k : Core} (h : Rising k.v) (r : BitVec 5) (v : Lanes) (q : BitVec 5) :
    getV (setV k r v) q = if q = r then v else getV k q := by
  unfold getV setV
  simp only [look_put h]
  by_cases e : q = r
  · simp [e]
  · have : q.toNat ≠ r.toNat := fun c => e (BitVec.eq_of_toNat_eq c)
    simp [e, this]

/-! ### What the shared operations answer -/

/-- An instruction of an existing core goes on: with its effect where the core executes it, else with no change. -/
theorem onCore_next {c : Nat} {s : State} {go : Dev → Core → Inst → Dev} (hc : c < 256) {i : Inst}
    (hs : (coreOf s.dev c).status = .running) (hh : (coreOf s.dev c).held = false) (hi : (coreOf s.dev c).inst = some i) :
    onCore c s go = .next { s with dev := go s.dev (coreOf s.dev c) i } := by
  simp [onCore, running, hc, hs, hh, hi]

theorem onCore_answers {c : Nat} {s : State} {go : Dev → Core → Inst → Dev} (hc : c < 256) :
    ∃ d, onCore c s go = .next { s with dev := d } := by
  exact ⟨_, if_pos hc⟩

theorem onCore_absent {c : Nat} {s : State} {go : Dev → Core → Inst → Dev} (hc : ¬ c < 256) :
    onCore c s go = .next s := if_neg hc

theorem onCoreMem_next {req c : Nat} {s : State} {go : Dev → Core → Inst → Dev} (hc : c < 256) {i : Inst}
    (hs : (coreOf s.dev c).status = .running) (hh : (coreOf s.dev c).held = false) (hi : (coreOf s.dev c).inst = some i)
    (hf : bankFlagged s.dev c req = false) :
    onCoreMem req c s go = .next { s with dev := go s.dev (coreOf s.dev c) i } := by
  unfold onCoreMem
  rw [onCore_next hc hs hh hi]
  simp [hf]

theorem onCoreMem_answers {req c : Nat} {s : State} {go : Dev → Core → Inst → Dev} (hc : c < 256) :
    ∃ d, onCoreMem req c s go = .next { s with dev := d } := onCore_answers hc

theorem atCtx_next {x : Nat} {s : State} {go : Dev → Dev} (h : x < 64) : atCtx x s go = .next { s with dev := go s.dev } := if_pos h

theorem atCtx_absent {x : Nat} {s : State} {go : Dev → Dev} (h : ¬ x < 64) : atCtx x s go = .next s := if_neg h

theorem atCore_next {c : Nat} {s : State} {go : Dev → Dev} (h : c < 256) : atCore c s go = .next { s with dev := go s.dev } := if_pos h

theorem atCore_absent {c : Nat} {s : State} {go : Dev → Dev} (h : ¬ c < 256) : atCore c s go = .next s := if_neg h

theorem atCluster_next {cl : Nat} {s : State} {go : Dev → Dev} (h : cl < 32) : atCluster cl s go = .next { s with dev := go s.dev } := if_pos h

theorem atCluster_absent {cl : Nat} {s : State} {go : Dev → Dev} (h : ¬ cl < 32) : atCluster cl s go = .next s := if_neg h

theorem atLink_next {l : Nat} {s : State} {go : Dev → Dev} (h : l < 19) : atLink l s go = .next { s with dev := go s.dev } := if_pos h

theorem atLink_absent {l : Nat} {s : State} {go : Dev → Dev} (h : ¬ l < 19) : atLink l s go = .next s := if_neg h

theorem atOptic_next {e : Nat} {s : State} {go : Dev → Dev} (h : e < 20) : atOptic e s go = .next { s with dev := go s.dev } := if_pos h

theorem atOptic_absent {e : Nat} {s : State} {go : Dev → Dev} (h : ¬ e < 20) : atOptic e s go = .next s := if_neg h

theorem atDie_next {die : Nat} {s : State} {go : Dev → Dev} (h : die < 4) : atDie die s go = .next { s with dev := go s.dev } := if_pos h

theorem atDie_absent {die : Nat} {s : State} {go : Dev → Dev} (h : ¬ die < 4) : atDie die s go = .next s := if_neg h

theorem onBar0_next {x : Nat} {s : State} {go : Dev → Dev} (h : x < 64) (hu : hostUp s.dev = true) :
    onBar0 x s go = .next { s with dev := go (wakeBy s.dev 1) } := by
  unfold onBar0
  rw [atCtx_next h]
  simp [hu]

theorem onHost_next {s : State} {go : Dev → Dev} (hu : hostUp s.dev = true) : onHost s go = .next { s with dev := go s.dev } := by
  simp [onHost, hu]

theorem onHost_down {s : State} {go : Dev → Dev} (hu : hostUp s.dev = false) : onHost s go = .next s := by
  simp [onHost, hu]

/-- An access that succeeds goes on with its value. -/
@[simp] theorem withAcc_ok {α : Type} (c : Nat) (wr : Bool) (a : α) (d : Dev) (go : α → Dev → Dev) : withAcc c wr (.ok a d) go = go a d := rfl

@[simp] theorem withAcc_bad {α : Type} (c : Nat) (wr : Bool) (d : Dev) (go : α → Dev → Dev) : withAcc c wr (.bad d) go = badAddress d c := rfl

@[simp] theorem withAcc_page {α : Type} (c : Nat) (wr : Bool) (va : Nat) (p : Bool) (d : Dev) (go : α → Dev → Dev) :
    withAcc c wr (.page va p d) go = pauseCore d c va p wr := rfl

@[simp] theorem withAcc_resource {α : Type} (c : Nat) (wr : Bool) (va : Nat) (d : Dev) (go : α → Dev → Dev) :
    withAcc c wr (.resource va d) go = coreFault d c 0x1052 (BitVec.ofNat 64 va) := rfl

/-- A package that is awake stays as it is at a wake event. -/
theorem wakeBy_awake {d : Dev} (h : sleep d = 0) (cause : Nat) : wakeBy d cause = d := by
  simp [wakeBy, h]

/-- With no error marks in memory, correcting a read changes nothing. -/
theorem eccRead_clean {d : Dev} {k n : Nat} (hu : marksIn d.upset k n = []) (hp : marksIn d.poison k n = []) (x : Nat) :
    eccRead d x k n = d := by
  simp [eccRead, hu, hp]

end Sys2Proof.Machine
end

