-- ==== Sys2Proof/Tests/Slice0.lean ====
section
/-! SUPPORT. Tests of the model: ill-formed commands, words written from the encodings, single steps, and for each statement states
that meet its hypotheses. -/

namespace Sys2Proof.Tests

open Sys2Proof Sys2Proof.Machine

set_option Elab.async false

/-! ### States for the tests -/

/-- Task 0 of context 1 on core 0. -/
def run0 : Inst := ⟨1, 0, 0, 3, false, 0x77⟩
def desc0 : TaskDesc := ⟨0x1000, 7, 1, 7, 3, false, false, true, 0x1234, 5, 0, 0, [], 0, 100⟩
def task0 (ph : TaskPhase) (started : List Nat) (d : TaskDesc) : TaskSt := { newTask d with phase := ph, started := started }
def graph0 : Graph :=
  ⟨0x10000, 0x10080, 1, 42, 0x11000, [], true, 5, [(0, some (task0 .running [0] desc0))], false, false, none⟩

/-- Core 0 runs task 0 with registers `x`. -/
def core0 (x : Table Word) : Core := { Core.reset with x := x, pc := 0x1000, status := .running, inst := some run0 }

/-- A page of KIND 0 to 2 with its frame or host address. -/
def page (kind : Nat) (frame : Option Nat) (addr : Nat) : Page := ⟨kind, frame, addr, true, false, false, false⟩

/-- A package that is up, with ctx 1 running a graph on clusters 0 and 1 and a page of each kind. -/
def dev0 : Dev :=
  { Dev.reset with
    power := { Dev.reset.power with vin := true, vaux := true }
    host := { HostIf.reset with linkUp := true, answers := true, busMaster := true }
    ctxs := [(0, { Ctx.reset with state := .idle }), (1, { Ctx.reset with state := .running, graph := some graph0 })]
    vm := ⟨[(pageKey 1 0x10000, some (page 2 none 0x100000)), (pageKey 1 0x200000, some (page 0 (some 256) 0)),
      (pageKey 1 0x400000, some (page 1 (some 0) 0))], [(256, true)], [(0, true)], 10⟩
    obj := [(okey 0x1000 7, 1), (okey 0x5010 2, 3), (okey 0x603F 1, 0x18)] }

def stateOf (d : Dev) : State := { State.reset with dev := d }

/-- The package with core 0 running on registers `x` and memory `m`. -/
def withX (x : Table Word) (m : Mem) : State := stateOf { dev0 with cores := [(0, core0 x)], mem := m }

/-- The package with context 1 changed. -/
def withCtx (d : Dev) (f : Ctx → Ctx) : State := stateOf (ctxUpd d 1 f)

/-- The package in a management state in which requests are served, from a segment and from the mailbox. -/
def src0 : Source := ⟨.segment 0x112233445566, 7⟩

def f0 : Fields := ⟨0, 0, 0, 3, 1, 2, 0⟩

theorem soundIf {s : State} (h : soundB s.dev = true) : Sound s.dev := sound_of_soundB h

theorem executesIf {s : State} {c : Nat} {i : Inst}
    (h : c < 256 ∧ (coreOf s.dev c).status = .running ∧ (coreOf s.dev c).held = false ∧ (coreOf s.dev c).inst = some i ∧
    (coreOf s.dev c).vq = []) : Executes s c i := ⟨h.1, h.2.1, h.2.2.1, h.2.2.2.1, h.2.2.2.2⟩

theorem readyIf {s : State} (h : s.dev.power.vaux = true ∧ bootDone s.dev = true ∧ og s.dev 0x1000 7 = 1 ∧ sleep s.dev = 0 ∧
    s.dev.mgmt.queue = []) : Ready s.dev := ⟨h.1, h.2.1, h.2.2.1, h.2.2.2.1, h.2.2.2.2⟩

/-- What a table reads as has a property that its default and all its entries have. -/
theorem look_of {α : Type} {P : α → Prop} {d : α} {t : Table α} (hd : P d) (h : ∀ e ∈ t, P e.2) (k : Nat) : P (look d t k) := by
  induction t with
  | nil => exact hd
  | cons e r ih =>
    obtain ⟨j, v⟩ := e
    rw [look_cons]
    split
    · exact h _ List.mem_cons_self
    · split
      · exact hd
      · exact ih fun e he => h e (List.mem_cons_of_mem _ he)

theorem noHarvestIf {d : Dev} (h : ∀ e ∈ d.ctxs, e.2.state ≠ .preempting ∧ e.2.state ≠ .reclaiming) : NoHarvest d :=
  fun x => look_of (P := fun k : Ctx => k.state ≠ .preempting ∧ k.state ≠ .reclaiming) (by decide) h x

theorem noHarvest_due {d : Dev} (h : NoHarvest d) (y : Nat) : harvestDue d y = false := by
  have := h y
  simp [harvestDue, this.1, this.2]

theorem ite_ne {p : Prop} [Decidable p] {a b v : Nat} (h1 : p → a ≠ v) (h2 : ¬ p → b ≠ v) : ite p a b ≠ v := by
  split
  · exact h1 ‹_›
  · exact h2 ‹_›

theorem default_sub8 (y : Nat) : objDefault (okey (0x5000 + 16 * y) 8) ≠ 1 := by
  have h1 : okey (0x5000 + 16 * y) 8 / 256 = 0x5000 + 16 * y := by unfold okey; omega
  have h2 : okey (0x5000 + 16 * y) 8 % 256 = 8 := by unfold okey; omega
  rw [objDefault, h1, h2]
  repeat refine ite_ne (fun h => by first | omega | decide) fun _ => ?_
  decide

theorem noReclaimIf {d : Dev} (h : ∀ e ∈ d.obj, e.2 ≠ 1 ∨ e.1 % 256 ≠ 8) (h2 : ∀ e ∈ d.ctxs, e.2.state ≠ .reclaiming) : NoReclaim d := by
  refine fun y => ⟨?_, look_of (P := fun k : Ctx => k.state ≠ .reclaiming) (by decide) h2 y⟩
  have key : ∀ t : Table Nat, (∀ e ∈ t, e.2 ≠ 1 ∨ e.1 % 256 ≠ 8) → ∀ v k, v ≠ 1 → k % 256 = 8 → look v t k ≠ 1 := by
    intro t ht v k hv hk
    induction t with
    | nil => exact hv
    | cons e r ih =>
      obtain ⟨j, w⟩ := e
      rw [look_cons]
      split
      · rename_i e
        subst e
        rcases ht _ List.mem_cons_self with h | h
        · exact h
        · exact absurd hk h
      · split
        · exact hv
        · exact ih fun e he => ht e (List.mem_cons_of_mem _ he)
  exact key d.obj h _ _ (default_sub8 y) (by unfold okey; omega)

/-! ### The block as a whole -/

theorem witness_StepIdles : State.reset.pending = [] ∧ Sound State.reset.dev ∧ ∀ c, (coreOf State.reset.dev c).vq = [] :=
  ⟨rfl, soundIf (by decide +kernel), fun _ => rfl⟩

theorem witness_SoundKept : Sound State.reset.dev ∧ ∃ t, step State.reset = .next t := ⟨soundIf (by decide +kernel), _, rfl⟩

theorem witness_WordsRoundTrip :
    instrOp (.signal 0 f0) = some (0, 0x22, f0) ∧ immSelect f0 = 0 ∧
      instrOp (.tsetb 0 { f0 with imm := 0x02000003 }) = some (0, 0x24, { f0 with imm := 0x02000003 }) ∧
      tallyControl 0 { f0 with imm := 0x02000003 } = some (.tsetb 0 { f0 with imm := 0x02000003 }) ∧ wordOf 1 f0 = wordOf 1 f0 := by
  decide

theorem witness_WellFormedCompletes : Instr.wf (.tloadRetire 255) = true ∧ exec (.tloadRetire 256) State.reset = .next State.reset ∧
    exec (.nop 0 0x0100000000000000) State.reset = .refused .otherInstruction ∧ ∃ t, exec .perstN State.reset = .next t :=
  ⟨by decide, by rfl, by rfl, _, rfl⟩

theorem witness_MeterApart : isMeterCommand .perstN = false ∧ (∃ t, exec .perstN State.reset = .next t) ∧ State.reset.pending = [] ∧
    ∃ t, step State.reset = .next t := ⟨rfl, ⟨_, rfl⟩, rfl, _, rfl⟩

theorem witness_MeterKept : MeterSound State.reset.meter ∧ ∃ t, step State.reset = .next t := ⟨by unfold MeterSound; decide, _, rfl⟩

/-- A meter that runs, just below 4 kWh. -/
def meter1 : Meter := { Meter.reset with running := true, energy := 14399999, remainder := 999 }

theorem witness_MeterCommands :
    State.reset.meter.running = false ∧ meter1.running = true ∧ 34000 ≤ 34000 ∧ dev0.power.vaux = true ∧ bootDone dev0 = true ∧
      isSealed 0x1000 7 = false ∧ isSealed 0x9010 1 = true := by decide

/-! ### Scalar instructions -/

theorem witness_ScalarArithmetic : Sound (withX [(1, 5), (2, 3)] []).dev ∧ Executes (withX [(1, 5), (2, 3)] []) 0 run0 :=
  ⟨soundIf (by decide +kernel), executesIf (by decide)⟩

theorem witness_ControlFlow : Sound (withX [(1, 0x2000)] []).dev ∧ Executes (withX [(1, 0x2000)] []) 0 run0 ∧
    (0x00FFFFFFFFFFFFFF : Word).toNat / 2 ^ 56 = 0 ∧ (getX (coreOf (withX [(1, 0x2000)] []).dev 0) f0.rs1).toNat % 8 = 0 ∧
    (coreOf (withX [(1, 0x2000)] []).dev 0).tload = none ∧
    taskOf (withX [(1, 0x2000)] []).dev run0.ctx run0.task = some (task0 .running [0] desc0) :=
  ⟨soundIf (by decide +kernel), executesIf (by decide), by decide +kernel⟩

/-- The last word of the core's own 6 MiB, and the first of the cluster's shared memory. -/
theorem witness_LocalLoadsStores :
    (let s := withX [(1, 0x5FFFF8)] [(0x5FFFF9, 7)]
     Sound s.dev ∧ Executes s 0 run0 ∧ bankFlagged s.dev 0 8 = false ∧
       getX (coreOf s.dev 0) f0.rs1 + f0.imm.signExtend 64 = BitVec.ofNat 64 0x5FFFF8 ∧ Clean s.dev (8 * (0x5FFFF8 / 8)) 8 ∧
       LocalBytes s.dev 0 0x5FFFF8 8 0x5FFFF8 ∧ LocalBytes s.dev 0 0x5FFFFC 4 0x5FFFFC) ∧
    let s := withX [(1, 0x1000000)] [(shKey 0 0, 7)]
    Sound s.dev ∧ Executes s 0 run0 ∧ bankFlagged s.dev 0 8 = false ∧
      getX (coreOf s.dev 0) f0.rs1 + f0.imm.signExtend 64 = BitVec.ofNat 64 0x1000000 ∧ Clean s.dev (8 * (shKey 0 0 / 8)) 8 ∧
      LocalBytes s.dev 0 0x1000000 8 (shKey 0 0) ∧ LocalBytes s.dev 0 0x1000000 4 (shKey 0 0) :=
  ⟨⟨soundIf (by decide +kernel), executesIf (by decide), by decide +kernel, by decide +kernel, ⟨by decide +kernel, by decide +kernel⟩,
      .inl (by decide +kernel), .inl (by decide +kernel)⟩,
    soundIf (by decide +kernel), executesIf (by decide), by decide +kernel, by decide +kernel, ⟨by decide +kernel, by decide +kernel⟩,
      .inr (by decide +kernel), .inr (by decide +kernel)⟩

/-- A host page and an HBM page; and an address with no page. -/
theorem witness_DeviceLoadsStores :
    (let s := withX [(1, BitVec.ofNat 64 (2 ^ 63 + 0x10008))] []
     Sound s.dev ∧ Executes s 0 run0 ∧ bankFlagged s.dev 0 8 = false ∧ cacheLines s.dev 0 = 0 ∧
       getX (coreOf s.dev 0) f0.rs1 + f0.imm.signExtend 64 = BitVec.ofNat 64 (2 ^ 63 + 0x10008) ∧
       PageByte s.dev 1 0x10008 (hostKey 0x100008) (page 2 none 0x100000) ∧ Clean s.dev (8 * (hostKey 0x100008 / 8)) 8 ∧
       hostKey 0x100008 % 8 = 0) ∧
    (let s := withX [(1, BitVec.ofNat 64 (2 ^ 63 + 0x3FFFF8))] []
     getX (coreOf s.dev 0) f0.rs1 + f0.imm.signExtend 64 = BitVec.ofNat 64 (2 ^ 63 + 0x3FFFF8) ∧
       PageByte s.dev 1 0x3FFFF8 (frameKey 0 256 + 0x1FFFF8) (page 0 (some 256) 0) ∧ (frameKey 0 256 + 0x1FFFF8) % 8 = 0) ∧
    let s := withX [(1, BitVec.ofNat 64 (2 ^ 63 + 0x900000))] []
    Sound s.dev ∧ Executes s 0 run0 ∧ getX (coreOf s.dev 0) f0.rs1 + f0.imm.signExtend 64 = BitVec.ofNat 64 (2 ^ 63 + 0x900000) ∧
      pageAt s.dev 1 0x900000 = none :=
  ⟨⟨soundIf (by decide +kernel), executesIf (by decide), by decide +kernel, by decide +kernel, by decide +kernel,
      ⟨by decide +kernel, .inl (by decide +kernel)⟩, ⟨by decide +kernel, by decide +kernel⟩, by decide +kernel⟩,
    ⟨by decide +kernel, ⟨by decide +kernel, .inr ⟨by decide, 256, by decide +kernel⟩⟩, by decide +kernel⟩,
    soundIf (by decide +kernel), executesIf (by decide), by decide +kernel, by decide +kernel⟩

theorem witness_InstructionFaults :
    let s := withX [(1, 0x1002)] []
    Executes s 0 run0 ∧ (wordOp 0x7F00000000000000).toNat = 0x7F ∧ coreInstr 0 0x2201000001000000 = .nop 0 0x2201000001000000 ∧
      wordOp 0x2201000001000000 ≠ 0 ∧ bankFlagged s.dev 0 7 = false ∧ bankFlagged s.dev 0 8 = false ∧
      (getX (coreOf s.dev 0) f0.rs1).toNat % 8 ≠ 0 ∧ (getX (coreOf s.dev 0) f0.rs1 + f0.imm.signExtend 64).toNat % 4 ≠ 0 :=
  ⟨executesIf (by decide), by decide +kernel⟩

/-- A dirty line of the context in the range, in a cluster with a cache. -/
theorem witness_CacheOperations :
    let v : CacheLine := ⟨1, List.replicate 64 7, true, []⟩
    let d := { (withX [(1, BitVec.ofNat 64 (2 ^ 63 + 0x10000)), (2, 1)] []).dev with
      clusters := [(0, { Cluster.reset with cache := [(0x400, some v)] })] }
    let s := stateOf (oset d 0x4010 1 1)
    Sound s.dev ∧ Executes s 0 run0 ∧ getX (coreOf s.dev 0) f0.rs1 = BitVec.ofNat 64 (2 ^ 63 + 0x10000) ∧
      (getX (coreOf s.dev 0) f0.rs2).toNat = 1 ∧ lineAt s.dev 0 0x400 = some v ∧ (∀ j, j < 8 → dLineAt s.dev j 0x400 = none) ∧
      PageByte s.dev 1 (64 * 0x400) (hostKey 0x100000) (page 2 none 0x100000) ∧ hostKey 0x100000 % 64 = 0 ∧ s.dev.upset = [] ∧
      s.dev.poison = [] :=
  ⟨soundIf (by decide +kernel), executesIf (by decide +kernel), by decide +kernel, by decide +kernel, by decide +kernel, by decide +kernel,
    ⟨by decide +kernel, .inl (by decide +kernel)⟩, by decide +kernel, rfl, rfl⟩

/-! ### Vector instructions -/

def fTy (ty : BitVec 3) : Fields := { f0 with ty := ty, rm := 4 }

theorem witness_VectorIntegers : Sound (withX [] []).dev ∧ Executes (withX [] []) 0 run0 ∧ (fTy 3).rm.toNat ≤ 4 ∧ (fTy 3).ty = 3 ∧
    (fTy 2).rm.toNat ≤ 4 ∧ (fTy 2).ty = 2 := ⟨soundIf (by decide +kernel), executesIf (by decide), by decide⟩

theorem witness_VectorFloats : Sound (withX [] []).dev ∧ Executes (withX [] []) 0 run0 ∧ (fTy 0).rm.toNat ≤ 4 ∧ (fTy 0).ty = 0 ∧
    (fTy 1).rm.toNat ≤ 4 ∧ (fTy 1).ty = 1 := ⟨soundIf (by decide +kernel), executesIf (by decide), by decide⟩

theorem witness_VectorLanes : Sound (withX [] []).dev ∧ Executes (withX [] []) 0 run0 ∧ (fTy 0).ty = 0 ∧ (fTy 1).ty = 1 ∧ (fTy 2).ty = 2 ∧
    (fTy 3).ty = 3 := ⟨soundIf (by decide +kernel), executesIf (by decide), by decide⟩

theorem witness_ConvertElements : Sound (withX [] []).dev ∧ Executes (withX [] []) 0 run0 ∧
    (∀ ty : BitVec 3, ty.toNat ≤ 3 → (fTy ty).rm.toNat ≤ 4 ∧ (fTy ty).ty.toNat ≤ 3) ∧ (0x1C : W32).toNat % 8 ≤ 4 :=
  ⟨soundIf (by decide +kernel), executesIf (by decide), by decide, by decide⟩

theorem witness_SpecialFunctions : Sound (withX [] []).dev ∧ Executes (withX [] []) 0 run0 ∧ f0.ty = 0 :=
  ⟨soundIf (by decide +kernel), executesIf (by decide), rfl⟩

theorem witness_Reductions : Sound (withX [] []).dev ∧ Executes (withX [] []) 0 run0 ∧ f0.ty = 0 :=
  ⟨soundIf (by decide +kernel), executesIf (by decide), rfl⟩

/-- The last 512 bytes of the core; strides that reach the end of the scratchpad. -/
theorem witness_VectorLoadStore :
    (let s := withX [(1, 0x5FFE00)] []
     Sound s.dev ∧ Executes s 0 run0 ∧ bankFlagged s.dev 0 7 = false ∧
       getX (coreOf s.dev 0) f0.rs1 + f0.imm.signExtend 64 = BitVec.ofNat 64 0x5FFE00 ∧ LocalBytes s.dev 0 0x5FFE00 512 0x5FFE00 ∧
       Clean s.dev 0x5FFE00 512) ∧
    (let s := withX [(2, 4681)] []
     Sound s.dev ∧ Executes s 0 run0 ∧ bankFlagged s.dev 0 7 = false ∧ (getX (coreOf s.dev 0) f0.rs2).toNat = 4681 ∧
       getX (coreOf s.dev 0) f0.rs1 + f0.imm.signExtend 64 = BitVec.ofNat 64 0 ∧ 0 + 64 * 7 * 4681 + 64 ≤ 0x200000 ∧
       ∀ w, w < 8 → Clean s.dev (spKey 0 0 + 64 * w * 4681) 64) ∧
    let s := withX [(2, 2184)] []
    let f := { f0 with imm := 13 }
    Sound s.dev ∧ Executes s 0 run0 ∧ (getX (coreOf s.dev 0) f.rs2).toNat = 2184 ∧ getX (coreOf s.dev 0) f.rs1 = BitVec.ofNat 64 0 ∧
      0 + 64 * 15 * 2184 + 64 ≤ 0x200000 ∧ (∀ w, w < 16 → Clean s.dev (spKey 0 0 + 64 * w * 2184) 64) ∧ f.imm.toNat % 4 = 1 ∧
      f.imm.toNat / 4 % 32 < 4 :=
  ⟨⟨soundIf (by decide +kernel), executesIf (by decide), by decide +kernel, by decide +kernel, .inl (by decide), rfl, rfl⟩,
    ⟨soundIf (by decide +kernel), executesIf (by decide), by decide +kernel, by decide +kernel, by decide +kernel, by decide,
      fun _ _ => ⟨rfl, rfl⟩⟩,
    soundIf (by decide +kernel), executesIf (by decide), by decide +kernel, by decide +kernel, by decide, fun _ _ => ⟨rfl, rfl⟩, by decide⟩

/-- The core's vector unit flagged at its banks; a queue that is empty, one short of full, full, and one with VBCAST in front. -/
def withQueue (flag : Bool) (n : Nat) : State :=
  stateOf { dev0 with cores := [(0, { core0 [(1, 9)] with vq := List.replicate n ⟨.vbcast 0 f0, [(1, 7)], 0xFF8⟩ })],
                      arb := ⟨if flag then [2 ^ 31 + flagKey 0 0 0 7] else []⟩ }

theorem witness_VectorQueue :
    (∀ e ∈ [(true, 0), (true, 16), (false, 1), (false, 15), (false, 16)], let s := withQueue e.1 e.2
      Sound s.dev ∧ (coreOf s.dev 0).status = .running ∧ (coreOf s.dev 0).held = false ∧ (coreOf s.dev 0).inst = some run0 ∧
        (coreOf s.dev 0).vq.length = e.2 ∧ bankFlagged s.dev 0 7 = e.1) ∧
    (coreOf (withQueue false 1).dev 0).vq = ⟨.vbcast 0 f0, [(1, 7)], 0xFF8⟩ :: [] ∧ (getP (coreOf (withQueue false 1).dev 0) f0.pred).getLsbD 127 = true := by
  have h : ∀ e ∈ [(true, 0), (true, 16), (false, 1), (false, 15), (false, 16)], let s := withQueue e.1 e.2
      soundB s.dev = true ∧ (coreOf s.dev 0).status = .running ∧ (coreOf s.dev 0).held = false ∧ (coreOf s.dev 0).inst = some run0 ∧
        (coreOf s.dev 0).vq.length = e.2 ∧ bankFlagged s.dev 0 7 = e.1 := by decide +kernel
  exact ⟨fun e he => ⟨soundIf (h e he).1, (h e he).2⟩, by decide +kernel⟩

/-- Blocks of F6 from the second group of four, and a raw segment. -/
theorem witness_BlockOperations :
    (let s := withX [(1, 0x1000), (2, 4)] []
     let f := { f0 with imm := 1 }
     Sound s.dev ∧ Executes s 0 run0 ∧ bankFlagged s.dev 0 7 = false ∧ f.pred = 0 ∧ f.rm = 0 ∧
       getX (coreOf s.dev 0) f.rs1 = BitVec.ofNat 64 0x1000 ∧ f.imm.toNat % 64 = 1 ∧ (getX (coreOf s.dev 0) f.rs2).toNat = 4 ∧
       LocalBytes s.dev 0 (0x1000 + blockBytes 1 * 4) (4 * blockBytes 1) (0x1000 + blockBytes 1 * 4) ∧
       Clean s.dev (0x1000 + blockBytes 1 * 4) (4 * blockBytes 1) ∧ 0x1000 + blockBytes 1 * 8 < 2 ^ 32) ∧
    let s := withX [(1, 0x1000), (2, 0x8000)] []
    let f := { f0 with imm := 512 }
    Sound s.dev ∧ Executes s 0 run0 ∧ f.imm.toNat % 2048 / 64 = 8 ∧ LocalBytes s.dev 0 0x1000 (16 * blockBytes 2) 0x1000 ∧
      getX (coreOf s.dev 0) f.rs2 = BitVec.ofNat 64 0x8000 ∧ LocalBytes s.dev 0 0x8000 (16 * blockBytes 2) 0x8000 ∧
      Clean s.dev 0x1000 (16 * blockBytes 2) :=
  ⟨⟨soundIf (by decide +kernel), executesIf (by decide), by decide +kernel, rfl, rfl, by decide +kernel, by decide, by decide +kernel,
      .inl (by decide), ⟨rfl, rfl⟩, by decide⟩,
    soundIf (by decide +kernel), executesIf (by decide), by decide, .inl (by decide), by decide +kernel, .inl (by decide), rfl, rfl⟩

/-- A VADAMW descriptor of one element with the arrays at 0x2000 to 0x6000 and no block output. -/
def adam0 : Mem := writeMem [] 0x1000 ([0x2000, 0x3000, 0x4000, 0x5000, 0x6000, 1].flatMap (toLE 4) ++
  (List.replicate 7 0x3F000000).flatMap (toLE 4) ++ [3])

theorem witness_OptimiserUpdate :
    (let s := withX [(1, 0x1000)] []
     Sound s.dev ∧ Executes s 0 run0 ∧ bankFlagged s.dev 0 7 = false ∧ f0.rm.toNat ≤ 4 ∧ getX (coreOf s.dev 0) f0.rs1 = BitVec.ofNat 64 0x1000 ∧
       LocalBytes s.dev 0 0x1000 64 0x1000 ∧ Clean s.dev 0x1000 64 ∧
       adamOk s.dev 0 (parseAdam ((List.range 64).map fun j => readByte s.dev.mem (0x1000 + j))) = false) ∧
    let s := withX [(1, 0x1000)] adam0
    let D := parseAdam ((List.range 64).map fun j => readByte s.dev.mem (0x1000 + j))
    Sound s.dev ∧ Executes s 0 run0 ∧ getX (coreOf s.dev 0) f0.rs1 = BitVec.ofNat 64 0x1000 ∧ adamOk s.dev 0 D = true ∧ D.fmt = 3 ∧
      (∀ p ∈ [D.m, D.v, D.w, D.g], p + 4 * D.count ≤ 0x600000 ∧ Clean s.dev (8 * (spKey 0 p / 8)) (4 * D.count + 16)) ∧
      [D.m, D.v, D.w, D.g].Pairwise fun p q => p + 4 * D.count ≤ q ∨ q + 4 * D.count ≤ p := by
  refine ⟨⟨soundIf (by decide +kernel), executesIf (by decide), by decide +kernel, by decide, by decide +kernel, .inl (by decide), ⟨rfl, rfl⟩,
    by decide +kernel⟩, soundIf (by decide +kernel), executesIf (by decide +kernel), by decide +kernel, by decide +kernel, by decide +kernel, ?_,
    by decide +kernel⟩
  have h : ∀ p ∈ [0x2000, 0x3000, 0x4000, 0x5000], p + 4 * 1 ≤ 0x600000 := by decide
  exact fun p hp => ⟨by revert p hp; decide +kernel, rfl, rfl⟩

/-! ### Regions and code tables -/

def reg0 : Region := ⟨0x1000000, 64, true, false, false, false, false, false, 4, 1, 3, 2, 0⟩

/-- Region 3 of cluster 0 is `r`; x2 names a record of a region of the cluster. -/
def withRegion (r : Region) : State :=
  stateOf { (withX [(1, 0x303), (2, 0x3000)] (writeMem [] 0x3000 (toLE 4 0x1000000 ++ toLE 4 64 ++ toLE 2 4))).dev with
    clusters := [(0, { Cluster.reset with regions := [(3, r)] })] }

/-- Regions that are part full, full, empty, being discarded on either side, opened, and not valid. -/
def regs0 : List Region :=
  [reg0, { reg0 with count := 4, tail := 1 }, { reg0 with count := 0 }, { reg0 with discP := true }, { reg0 with discC := true },
    { reg0 with opened := true }, { reg0 with valid := false }]

theorem witness_RegionPointers : ∀ r ∈ regs0, Sound (withRegion r).dev ∧ Executes (withRegion r) 0 run0 ∧
    (getX (coreOf (withRegion r).dev 0) f0.rs1).toNat % 2 ^ 32 = 0x303 ∧ regionKey 0 0x303 = some 3 ∧ regionOf (withRegion r).dev 0 3 = r ∧
    channelHas (withRegion r).dev 1 0 0x303 false = false ∧ channelHas (withRegion r).dev 1 0 0x303 true = false := by
  have h : ∀ r ∈ regs0, soundB (withRegion r).dev = true ∧ ((coreOf (withRegion r).dev 0).status = .running ∧
    (coreOf (withRegion r).dev 0).held = false ∧ (coreOf (withRegion r).dev 0).inst = some run0 ∧ (coreOf (withRegion r).dev 0).vq = []) ∧
    (getX (coreOf (withRegion r).dev 0) f0.rs1).toNat % 2 ^ 32 = 0x303 ∧ regionKey 0 0x303 = some 3 ∧ regionOf (withRegion r).dev 0 3 = r ∧
    channelHas (withRegion r).dev 1 0 0x303 false = false ∧ channelHas (withRegion r).dev 1 0 0x303 true = false := by decide +kernel
  exact fun r hr => ⟨soundIf (h r hr).1, executesIf ⟨by decide, (h r hr).2.1⟩, (h r hr).2.2⟩

/-- A record that fits, and, where memory is zero, one that does not. -/
theorem witness_RegionRecords :
    let s := withRegion reg0
    let b (off n : Nat) : Nat := leNat ((List.range n).map fun j => readByte s.dev.mem (0x3000 + off + j))
    Sound s.dev ∧ Executes s 0 run0 ∧ bankFlagged s.dev 0 8 = false ∧ getX (coreOf s.dev 0) f0.rs2 = BitVec.ofNat 64 0x3000 ∧
      LocalBytes s.dev 0 0x3000 16 0x3000 ∧ Clean s.dev (8 * (0x3000 / 8)) 32 ∧ regionKey 0 0x303 = some 3 ∧
      (b 4 3 % 4 = 0 ∧ 4 ≤ b 4 3 ∧ b 4 3 ≤ 1048576 ∧ 1 ≤ b 8 2 ∧ b 0 4 % 64 = 0 ∧ b 10 2 < b 8 2 ∧ b 12 2 < b 8 2 ∧ b 14 2 ≤ b 8 2 ∧
        memOf (b 0 4) = some (0x303 / 256 % 4) ∧ b 0 4 + b 8 2 * b 4 3 ≤ memEnd s.dev 0 (0x303 / 256 % 4)) ∧
      let s := withX [(1, 0x303), (2, 0x3000)] []
      Sound s.dev ∧ Executes s 0 run0 ∧ ¬ 4 ≤ leNat ((List.range 3).map fun j => readByte s.dev.mem (0x3000 + 4 + j)) :=
  ⟨soundIf (by decide +kernel), executesIf (by decide +kernel), by decide +kernel, by decide +kernel, .inl (by decide), ⟨rfl, rfl⟩, by decide +kernel,
    by decide +kernel, soundIf (by decide +kernel), executesIf (by decide), by decide +kernel⟩

/-- Code table slot `n`, a record of KIND `kind` with every length 4, and the first slots used. -/
def withTable (n : Nat) (kind : Byte) (used : Nat) : State :=
  let s := withX [(1, BitVec.ofNat 64 n), (2, 0x2000)] (writeMem [] 0x2000 (List.replicate 8 0x44 ++ [kind]))
  stateOf (ctxUpd s.dev 1 fun k => { k with tables := (List.range used).map fun n => (n, some ⟨0, []⟩) })

theorem witness_CodeTableSlots :
    (let s := withTable 63 0 63
     let x := ctxOf s.dev 1
     let b := (List.range 16).map fun j => readByte s.dev.mem (0x2000 + j)
     Sound s.dev ∧ Executes s 0 run0 ∧ (look none x.tables 63 = none ∧ look false x.reserved 63 = false) ∧
       (∀ m, m < 63 → ¬ (look none x.tables m = none ∧ look false x.reserved m = false)) ∧ (getX (coreOf s.dev 0) f0.rs1).toNat = 63 ∧
       bankFlagged s.dev 0 8 = false ∧ getX (coreOf s.dev 0) f0.rs2 = BitVec.ofNat 64 0x2000 ∧ LocalBytes s.dev 0 0x2000 16 0x2000 ∧
       Clean s.dev 0x2000 16 ∧ RecordValid b (List.replicate 16 4)) ∧
    let s := withTable 64 2 64
    let x := ctxOf s.dev 1
    let b := (List.range 16).map fun j => readByte s.dev.mem (0x2000 + j)
    Sound s.dev ∧ Executes s 0 run0 ∧ (∀ m, m < 64 → ¬ (look none x.tables m = none ∧ look false x.reserved m = false)) ∧
      64 ≤ (getX (coreOf s.dev 0) f0.rs1).toNat ∧ ∀ len, ¬ RecordValid b len :=
  ⟨⟨soundIf (by decide +kernel), executesIf (by decide +kernel), by decide +kernel, by decide +kernel, by decide +kernel, by decide +kernel,
      by decide +kernel, .inl (by decide), ⟨rfl, rfl⟩, .inl (by decide +kernel), by decide, by decide, by decide⟩,
    soundIf (by decide +kernel), executesIf (by decide +kernel), by decide +kernel, by decide +kernel,
    fun _ h => h.1.elim (fun h => absurd h.1 (by decide +kernel)) fun h => absurd h.1 (by decide +kernel)⟩

/-! ### Tallies -/

def count0 (n : Nat) : Tally := { Tally.reset with inuse := true, count := BitVec.ofNat 24 n, owner := 1 }
def barrier0 (p : Nat) : Tally := { Tally.reset with inuse := true, barrier := true, p := BitVec.ofNat 16 p, owner := 1 }

/-- Tally 5 of cluster 0, which x1 names, is `y`; core 0 has latch `l`. -/
def withTally (y : Tally) (l : Option (Nat × BitVec 8)) : State :=
  stateOf { (withX [(1, 5)] []).dev with tallies := [(5, y)], cores := [(0, { core0 [(1, 5)] with latch := l })] }

def fN (n : Nat) : Fields := { f0 with imm := BitVec.ofNat 32 n }

theorem actsIf {d : Dev} {key x : Nat} (h : nodeCtx d key = some x ∧ (ctxOf d x).state ≠ .frozen ∧ (ctxOf d x).harvesting = false ∧
    (tallyOf d key).inuse = true) : TallyActs d key x := ⟨h.1, h.2.1, h.2.2.1, h.2.2.2⟩

/-- Context 1 may act on tally 5, which x1 of core 0 names. -/
abbrev OwnTally (s : State) : Prop := (getX (coreOf s.dev 0) f0.rs1).toNat = 5 ∧ (maskOf s.dev 1).testBit 0 = true ∧
  nodeCtx s.dev 5 = some 1 ∧ (ctxOf s.dev 1).state ≠ .frozen ∧ (ctxOf s.dev 1).harvesting = false ∧ (tallyOf s.dev 5).inuse = true

theorem ownIf {s : State} (h : soundB s.dev = true ∧ ((coreOf s.dev 0).status = .running ∧ (coreOf s.dev 0).held = false ∧
      (coreOf s.dev 0).inst = some run0 ∧ (coreOf s.dev 0).vq = []) ∧ OwnTally s) (n : Nat) :
    Sound s.dev ∧ Executes s 0 run0 ∧ NamesOwn s 0 run0 (fN n) 5 := by
  have named : (getX (coreOf s.dev 0) (fN n).rs1).toNat = 5 := h.2.2.1
  exact ⟨soundIf h.1, executesIf ⟨by decide, h.2.1⟩, by omega, by omega, by decide, h.2.2.2.1, actsIf h.2.2.2.2⟩

/-- A tally with nobody in line, one at its largest count, and one with a core in line. -/
theorem witness_CounterTallies :
    (∀ y ∈ [count0 3, count0 0xFFFFFF, { count0 1 with line := [(.core 1, 2, none)] }], ∀ n ∈ [0, 1, 3, 4],
      Sound (withTally y none).dev ∧ Executes (withTally y none) 0 run0 ∧ NamesOwn (withTally y none) 0 run0 (fN n) 5) ∧
    (∀ n ∈ [0, 1, 3, 4], (fN n).imm.toNat / 2 ^ 24 = 0 ∧ (fN n).imm.toNat = n) ∧
    ∃ z, taskOf (withTally (count0 3) none).dev 1 0 = some z ∧ z.phase = .running ∧ z.fault = none ∧ 0 ∈ z.started := by
  have h : ∀ y ∈ [count0 3, count0 0xFFFFFF, { count0 1 with line := [(.core 1, 2, none)] }], soundB (withTally y none).dev = true ∧ ((coreOf (withTally y none).dev 0).status = .running ∧ (coreOf (withTally y none).dev 0).held = false ∧
      (coreOf (withTally y none).dev 0).inst = some run0 ∧ (coreOf (withTally y none).dev 0).vq = []) ∧ OwnTally (withTally y none) := by decide +kernel
  exact ⟨fun y hy n _ => ownIf (h y hy) n, by decide, task0 .running [0] desc0, by decide +kernel⟩

/-- Barriers that an arrival leaves open, closes, and sends up; and latches that name the tally with its GEN and another. -/
theorem witness_BarrierTallies :
    (∀ y ∈ [barrier0 2, barrier0 1, { barrier0 1 with parent := 0x0A }], ∀ l ∈ [none, some (5, 0), some (5, 255)],
      Sound (withTally y l).dev ∧ Executes (withTally y l) 0 run0 ∧ NamesOwn (withTally y l) 0 run0 (fN 0) 5) ∧
    (barrier0 2).count.toNat + 1 < (barrier0 2).p.toNat ∧ (barrier0 1).p.toNat ≤ (barrier0 1).count.toNat + 1 ∧ refLevel 0x0A ≠ 4 ∧
      (barrier0 1).gen ≠ 255 := by
  have h : ∀ y ∈ [barrier0 2, barrier0 1, { barrier0 1 with parent := 0x0A }], ∀ l ∈ [none, some (5, 0), some (5, 255)],
    soundB (withTally y l).dev = true ∧ ((coreOf (withTally y l).dev 0).status = .running ∧ (coreOf (withTally y l).dev 0).held = false ∧
      (coreOf (withTally y l).dev 0).inst = some run0 ∧ (coreOf (withTally y l).dev 0).vq = []) ∧ OwnTally (withTally y l) := by decide +kernel
  exact ⟨fun y hy l hl => ownIf (h y hy l hl) 0, by decide⟩

/-- x1 is a node reference, `y` the tally of node `key`, `quota` the context's tally quota. -/
def withNode (r : Word) (key : Nat) (y : Tally) (quota : Nat) : State :=
  stateOf (oset { (withX [(1, r)] []).dev with tallies := put Tally.reset [] key y } 0x5010 5 quota)

theorem witness_TallyControl :
    (∀ k ∈ [5, 33088 + 511], ∀ y ∈ [Tally.reset, count0 3, { count0 3 with owner := 2 }, { barrier0 2 with count := 1 }, barrier0 2],
      ∀ quota ∈ [0, 0xFFFFFFFF],
      Sound (withNode (refOf dev0 k) k y quota).dev ∧ Executes (withNode (refOf dev0 k) k y quota) 0 run0) ∧
    (∀ k ∈ [5, 33088 + 511], nodeKey (refOf dev0 k) = some k ∧ (k < 32768 → (maskOf dev0 run0.ctx).testBit (k / 1024) = true) ∧
      (refLevel (refOf dev0 k) = 4 → refPackage (refOf dev0 k) = ownIndex dev0) ∧ parentOk k (refOf dev0 k) 0 = true ∧
      parentOk k (refOf dev0 k) 0x1F = false) ∧
    refLevel (refOf dev0 5) = 1 ∧ nodeKey 0 = none ∧ talliesInUse (withNode 0 5 Tally.reset 0).dev 1 = 0 ∧
    cobj (withNode 0 5 Tally.reset 0).dev 1 5 = 0 ∧ (fN (2 ^ 24)).imm.toNat / 2 ^ 24 = 1 ∧ (fN (2 ^ 25 + 16)).imm.toNat / 2 ^ 24 = 2 ∧
    (fN (2 ^ 25 + 16)).imm.toNat % 65536 = 16 ∧ (fN (3 * 2 ^ 24)).imm.toNat / 2 ^ 24 = 3 := by
  have h : ∀ k ∈ [5, 33088 + 511], ∀ y ∈ [Tally.reset, count0 3, { count0 3 with owner := 2 }, { barrier0 2 with count := 1 }, barrier0 2],
      ∀ quota ∈ [0, 0xFFFFFFFF], let s := withNode (refOf dev0 k) k y quota
      soundB s.dev = true ∧ (coreOf s.dev 0).status = .running ∧ (coreOf s.dev 0).held = false ∧ (coreOf s.dev 0).inst = some run0 ∧
        (coreOf s.dev 0).vq = [] := by
    decide +kernel
  exact ⟨fun k hk y hy q hq => ⟨soundIf (h k hk y hy q hq).1, executesIf ⟨by decide, (h k hk y hy q hq).2⟩⟩, by decide +kernel⟩

/-- A message to tally 5, alone in flight. -/
def msg0 (op : TallyOp) (ch : Charge) (path : Word) : TallyMsg := ⟨refOf dev0 5, op, ch, 1, path⟩
def withMsg (y : Tally) (m : TallyMsg) : State := stateOf { (withTally y none).dev with inflight := [m], tallies := put Tally.reset [] 5 y }

theorem witness_TallyMessages :
    (∀ e ∈ [(count0 3, msg0 (.signal 1) (.channel 1 0) 0), (count0 3, msg0 (.decr 3) (.instruction 1 0 0 0x1000) 0),
        (barrier0 2, msg0 .arrive .node 1), ({ barrier0 2 with up := true, count := 2 }, msg0 .release .node 0)],
      Sound (withMsg e.1 e.2).dev ∧ TallyActs (withMsg e.1 e.2).dev 5 1 ∧ sleep (withMsg e.1 e.2).dev = 0 ∧ nodeKey e.2.node = some 5 ∧
        (withMsg e.1 e.2).dev.inflight = [e.2]) ∧
    (let s := withMsg Tally.reset (msg0 (.signal 1) (.channel 1 0) 0)
     Sound s.dev ∧ nodeCtx s.dev 5 = some 1 ∧ (ctxOf s.dev 1).state ≠ .frozen ∧ (ctxOf s.dev 1).harvesting = false ∧
       (tallyOf s.dev 5).inuse = false ∧ (msg0 (.signal 1) (.instruction 1 0 0 0x1000) 0).node = (msg0 (.signal 1) (.channel 1 0) 0).node) ∧
    let s := stateOf (coreUpd dev0 255 fun k => { k with status := .waiting })
    Sound s.dev ∧ (coreOf s.dev 255).status = .waiting := by
  have h : ∀ e ∈ [(count0 3, msg0 (.signal 1) (.channel 1 0) 0), (count0 3, msg0 (.decr 3) (.instruction 1 0 0 0x1000) 0),
        (barrier0 2, msg0 .arrive .node 1), ({ barrier0 2 with up := true, count := 2 }, msg0 .release .node 0)],
      soundB (withMsg e.1 e.2).dev = true ∧ (nodeCtx (withMsg e.1 e.2).dev 5 = some 1 ∧ (ctxOf (withMsg e.1 e.2).dev 1).state ≠ .frozen ∧
        (ctxOf (withMsg e.1 e.2).dev 1).harvesting = false ∧ (tallyOf (withMsg e.1 e.2).dev 5).inuse = true) ∧
        sleep (withMsg e.1 e.2).dev = 0 ∧ nodeKey e.2.node = some 5 ∧ (withMsg e.1 e.2).dev.inflight = [e.2] := by decide +kernel
  exact ⟨fun e he => ⟨soundIf (h e he).1, actsIf (h e he).2.1, (h e he).2.2⟩,
    ⟨soundIf (by decide +kernel), by decide +kernel⟩, soundIf (by decide +kernel), by decide +kernel⟩

/-! ### Matrix commands and DMA -/

/-- A descriptor of an F8 command of one row, K = 3, N = 4 with raw A24 output on the engines of `mask`. -/
def matBytes (op mask : Nat) : List Byte :=
  toLE 1 op ++ toLE 1 0 ++ toLE 1 15 ++ toLE 1 0 ++ toLE 2 1 ++ toLE 2 3 ++ toLE 2 4 ++ toLE 2 mask ++ toLE 2 0xFFFF ++ toLE 2 0 ++ toLE 4 0x200000 ++
    toLE 4 0 ++ toLE 4 0x500000 ++ toLE 4 0x500100 ++ toLE 4 0x300 ++ toLE 4 0x500200 ++ toLE 4 0x3F800000 ++ toLE 4 0x3F800000 ++ zeros 16
def ccbBytes : List Byte := toLE 4 0x3F800000 ++ toLE 4 0xFF7FFFFF ++ toLE 4 0x7F7FFFFF ++ [5] ++ zeros 19
def part0 : Part := ⟨1, 0x200000, 0x500000, false, none, [], 0, 0x40, false, 0x500100, 0, 1, 0, false, 0x77, 0xFFFF, parseCcb ccbBytes, false, [], false⟩
def cmd0 (started : Bool) : MatCmd := ⟨7, parseMat (matBytes 1 1), [part0], started, 1, []⟩
def withDesc (b : List Byte) (queue : List MatCmd) : State :=
  stateOf (coreUpd (withX [(1, 0x1000)] (writeMem (writeMem [] 0x300 ccbBytes) 0x1000 b)).dev 0 fun k => { k with queue := queue })

/-- A good descriptor, one with no listed opcode, one with an empty mask, and a full queue. -/
theorem witness_MatrixIssue :
    (∀ e ∈ [(matBytes 1 1, []), (matBytes 3 1, []), (matBytes 1 0, []), (matBytes 1 1, List.replicate 8 (cmd0 false))],
      Sound (withDesc e.1 e.2).dev ∧ Executes (withDesc e.1 e.2) 0 run0 ∧ bankFlagged (withDesc e.1 e.2).dev 0 8 = false ∧
        getX (coreOf (withDesc e.1 e.2).dev 0) f0.rs1 = BitVec.ofNat 64 0x1000 ∧ LocalBytes (withDesc e.1 e.2).dev 0 0x1000 64 0x1000 ∧
        (withDesc e.1 e.2).dev.upset = [] ∧ (withDesc e.1 e.2).dev.poison = [] ∧ (coreOf (withDesc e.1 e.2).dev 0).queue = e.2) ∧
    let s := withDesc (matBytes 1 1) []
    let m := parseMat ((List.range 64).map fun j => readByte s.dev.mem (0x1000 + j))
    m.aRate ≤ 4 ∧ m.bRate ≤ 4 ∧ m.aFmt = 3 ∧ m.aRate = 0 ∧ m.bRate = 0 ∧
      matCheck s.dev 0 m (parseCcb ((List.range 32).map fun j => readByte s.dev.mem (0x300 + j))) 1 = 0 ∧ batches s.dev 0 m = false ∧
      localKey s.dev 0 m.ccbAddr 32 = some 0x300 := by
  have h : ∀ e ∈ [(matBytes 1 1, []), (matBytes 3 1, []), (matBytes 1 0, []), (matBytes 1 1, List.replicate 8 (cmd0 false))],
      let s := withDesc e.1 e.2
      soundB s.dev = true ∧ ((coreOf s.dev 0).status = .running ∧ (coreOf s.dev 0).held = false ∧ (coreOf s.dev 0).inst = some run0 ∧
        (coreOf s.dev 0).vq = []) ∧ bankFlagged s.dev 0 8 = false ∧ getX (coreOf s.dev 0) f0.rs1 = BitVec.ofNat 64 0x1000 ∧ (coreOf s.dev 0).queue = e.2 := by
    decide +kernel
  exact ⟨fun e he => ⟨soundIf (h e he).1, executesIf ⟨by decide, (h e he).2.1⟩, (h e he).2.2.1, (h e he).2.2.2.1, .inl (by decide), rfl, rfl,
    (h e he).2.2.2.2⟩, by decide +kernel⟩

/-- Core 0 with this queue and engine 0 as given. -/
def withEngine (q : List MatCmd) (e : Engine) : State :=
  let k := { Core.reset with queue := q, nextCmd := 9, engines := put Engine.reset [] 0 e }
  stateOf { dev0 with cores := [(0, k)], mem := writeMem [] 0x200000 [0x40, 0x41, 0x42], tallies := [(5, count0 3)] }
def tile0 : Tile := ⟨7, 0, true, [(0, .num 1 0), (64, .num 3 (-1)), (129, .num 1 2)]⟩
def busy0 : Engine := { Engine.reset with cmd := some 7, shadow := some tile0 }
def staged0 : Part := { part0 with staged := some ([1, 2], [false, false]), results := [(4, [1, 2, 3, 4])] }
def group0 : Group := ⟨0, (cmd0 false).desc, [part0, part0], false⟩

theorem witness_MatrixEngineSteps :
    (let s := withEngine [cmd0 false] Engine.reset
     Sound s.dev ∧ NoHarvest s.dev ∧ engineMay s.dev 0 (cmd0 false) = true ∧
       (∀ g ∈ enginesOf (cmd0 false).desc, (engineOf (coreOf s.dev 0) g).cmd = none) ∧ passesOf (cmd0 false).desc 0 ≠ 0 ∧
       (engineOf (coreOf s.dev 0) 0).shadow = none ∧ nextTile (coreOf s.dev 0) 0 = some (7, 0) ∧
       cmdById (coreOf s.dev 0) 7 = some (cmd0 false) ∧ bankFlagged s.dev 0 1 = false) ∧
    (let s := withEngine [cmd0 true] busy0
     Sound s.dev ∧ NoHarvest s.dev ∧ engineOf (coreOf s.dev 0) 0 = busy0 ∧ busy0.pass = tile0.pass ∧ cmdById (coreOf s.dev 0) 7 = some (cmd0 true) ∧
       engineMay s.dev 0 (cmd0 true) = true) ∧
    (let s := withEngine [cmd0 true] Engine.reset
     Sound s.dev ∧ NoHarvest s.dev ∧ finishedBy (coreOf s.dev 0) (cmd0 true) = true ∧ (ctxOf s.dev 1).state ≠ .frozen ∧
       (clusterOf s.dev 0).groups = [] ∧ TallyActs s.dev 5 1 ∧ (tallyOf s.dev 5).barrier = false ∧ (tallyOf s.dev 5).line = []) ∧
    (∀ n ∈ [7, 8], let s := stateOf { (withEngine (List.replicate n (cmd0 true)) Engine.reset).dev with
        clusters := [(0, { Cluster.reset with groups := [group0] })] }
      Sound s.dev ∧ NoHarvest s.dev ∧ (clusterOf s.dev 0).groups[0]? = some group0 ∧ (coreOf s.dev 0).queue.length = n ∧
        (ctxOf s.dev (groupCtx group0)).state ≠ .frozen) ∧
    let q := { cmd0 true with parts := [staged0] }
    let s := withEngine [q] Engine.reset
    Sound s.dev ∧ NoHarvest s.dev ∧ finishedBy (coreOf s.dev 0) q = true ∧ localKey s.dev 0 (staged0.outAddr + 4) 4 = some 0x500004 ∧
      (ctxOf s.dev q.ctx).state ≠ .frozen := by
  refine ⟨⟨soundIf (by decide +kernel), noHarvestIf (by decide), by decide +kernel⟩, ⟨soundIf (by decide +kernel), noHarvestIf (by decide),
    by decide +kernel⟩, ⟨soundIf (by decide +kernel), noHarvestIf (by decide), by decide +kernel, by decide +kernel, by decide +kernel,
    actsIf (by decide +kernel), by decide +kernel⟩, ?_, soundIf (by decide +kernel), noHarvestIf (by decide), by decide +kernel⟩
  have h : ∀ n ∈ [7, 8], let s := stateOf { (withEngine (List.replicate n (cmd0 true)) Engine.reset).dev with
        clusters := [(0, { Cluster.reset with groups := [group0] })] }
      soundB s.dev = true ∧ (clusterOf s.dev 0).groups[0]? = some group0 ∧ (coreOf s.dev 0).queue.length = n ∧
        (ctxOf s.dev (groupCtx group0)).state ≠ .frozen := by decide +kernel
  exact fun n hn => ⟨soundIf (h n hn).1, noHarvestIf (by show ∀ e ∈ dev0.ctxs, _; decide), (h n hn).2⟩

theorem witness_MatrixRowResult :
    let s := withEngine [cmd0 true] { busy0 with shadow := none, active := some tile0 }
    let e := engineOf (coreOf s.dev 0) 0
    let m := (cmd0 true).desc
    Sound s.dev ∧ e.cmd = some 7 ∧ cmdById (coreOf s.dev 0) 7 = some (cmd0 true) ∧ e.pass = 0 ∧ e.active = some tile0 ∧ tile0.pass = 0 ∧
      part0.rows = m.m ∧ m.aCirc = false ∧ m.outCirc = false ∧ m.aFmt = 3 ∧ m.bFmt = 3 ∧ 1 ≤ m.k ∧ m.k ≤ 32 ∧ 1 ≤ m.n ∧ m.n ≤ 64 ∧
      m.mask = 2 ^ 0 ∧ e.row < m.m ∧ part0.ccb.outFmt = 5 ∧ engineMay s.dev 0 (cmd0 true) = true ∧ bankFlagged s.dev 0 2 = false ∧
      bankFlagged s.dev 0 3 = false ∧ bankFlagged s.dev 0 4 = false ∧ s.dev.upset = [] ∧ s.dev.poison = [] ∧
      localKey s.dev 0 (part0.aAddr + e.row * m.k) m.k = some 0x200000 ∧
      localKey s.dev 0 (part0.outAddr + e.row * (4 * m.n)) (4 * m.n) = some 0x500000 := ⟨soundIf (by decide +kernel), by decide +kernel⟩

theorem witness_WholeMatrixCommands : ∀ op ∈ [1, 2], ∀ done ∈ [5, 0xFFFF], let p := { part0 with done := done, rows := (parseMat (matBytes op 1)).m }
    let q := { cmd0 false with desc := parseMat (matBytes op 1), parts := [p] }
    let s := withEngine [q] Engine.reset
    Sound s.dev ∧ NoHarvest s.dev ∧ TallyActs s.dev 5 p.ctx ∧ (coreOf s.dev 0).queue = q :: [] ∧
      (∀ e ∈ (coreOf s.dev 0).queue, ∀ p ∈ e.parts, p.staged = none) ∧ q.desc.opcode = op ∧ (ctxOf s.dev q.ctx).state = .running ∧
      p.rows = q.desc.m ∧ q.desc.aCirc = false ∧ q.desc.outCirc = false ∧ p.ccb.outFmt = 5 ∧
      (∀ g, g < 4 → (engineOf (coreOf s.dev 0) g).cmd = none ∧ (engineOf (coreOf s.dev 0) g).shadow = none ∧
        (engineOf (coreOf s.dev 0) g).active = none) ∧
      (∀ r ∈ [1, 2, 3, 4], bankFlagged s.dev 0 r = false) ∧ s.dev.upset = [] ∧ s.dev.poison = [] ∧ (clusterOf s.dev 0).groups = [] ∧
      (tallyOf s.dev 5).barrier = false ∧ (tallyOf s.dev 5).line = [] ∧ (tallyOf s.dev 5).count.toNat < 0xFFFFFF := by
  intro op ho done hd
  have h : ∀ op ∈ [1, 2], ∀ done ∈ [5, 0xFFFF], let p := { part0 with done := done, rows := (parseMat (matBytes op 1)).m }
      let q := { cmd0 false with desc := parseMat (matBytes op 1), parts := [p] }
      let s := withEngine [q] Engine.reset
      soundB s.dev = true ∧ (nodeCtx s.dev 5 = some p.ctx ∧ (ctxOf s.dev p.ctx).state ≠ .frozen ∧ (ctxOf s.dev p.ctx).harvesting = false ∧
        (tallyOf s.dev 5).inuse = true) ∧ (coreOf s.dev 0).queue = q :: [] ∧
      (∀ e ∈ (coreOf s.dev 0).queue, ∀ p ∈ e.parts, p.staged = none) ∧ q.desc.opcode = op ∧ (ctxOf s.dev q.ctx).state = .running ∧
      p.rows = q.desc.m ∧ q.desc.aCirc = false ∧ q.desc.outCirc = false ∧ p.ccb.outFmt = 5 ∧
      (∀ g, g < 4 → (engineOf (coreOf s.dev 0) g).cmd = none ∧ (engineOf (coreOf s.dev 0) g).shadow = none ∧
        (engineOf (coreOf s.dev 0) g).active = none) ∧
      (∀ r ∈ [1, 2, 3, 4], bankFlagged s.dev 0 r = false) ∧ s.dev.upset = [] ∧ s.dev.poison = [] ∧ (clusterOf s.dev 0).groups = [] ∧
      (tallyOf s.dev 5).barrier = false ∧ (tallyOf s.dev 5).line = [] ∧ (tallyOf s.dev 5).count.toNat < 0xFFFFFF := by decide +kernel
  exact ⟨soundIf (h op ho done hd).1, noHarvestIf (by show ∀ e ∈ dev0.ctxs, _; decide), actsIf (h op ho done hd).2.1, (h op ho done hd).2.2⟩

/-- A descriptor of two rows of 256 bytes, from 0x1000 to 0x300000. -/
def dmaBytes (op : Nat) : List Byte :=
  toLE 1 op ++ [0] ++ toLE 2 0xFFFF ++ toLE 2 2 ++ toLE 2 2 ++ toLE 8 0x1000 ++ toLE 8 0x300000 ++ toLE 8 256 ++ toLE 8 512 ++ toLE 8 512 ++ zeros 16
def dma0 (op : Nat) : Dma := parseDma (dmaBytes op) 0 0 run0
def withDma (op : Nat) (slots : Table (Option Dma)) : State :=
  stateOf { (withX [(1, 0x2000)] (writeMem [] 0x2000 (dmaBytes op))).dev with
    clusters := [(0, { Cluster.reset with dma := slots })], tallies := [(5, count0 3)] }
def full0 : Table (Option Dma) := (List.range 256).map fun n => (n, some (dma0 1))

theorem witness_DmaDescriptors :
    (∀ e ∈ [(1, 255), (0, 0), (1, 256)], let s := withDma e.1 (full0.take e.2)
      Sound s.dev ∧ Executes s 0 run0 ∧ bankFlagged s.dev 0 8 = false ∧ getX (coreOf s.dev 0) f0.rs1 = BitVec.ofNat 64 0x2000 ∧
        LocalBytes s.dev 0 0x2000 64 0x2000 ∧ (∀ n, n < e.2 → dmaAt s.dev 0 n ≠ none) ∧ dmaAt s.dev 0 e.2 = none ∧
        dmaOk s.dev (parseDma ((List.range 64).map fun j => readByte s.dev.mem (0x2000 + j)) (nextSeq s.dev 0) 0 run0) = (e.1 == 1)) ∧
    (∀ op ∈ [1, 3], let T := dma0 op
      let s := withDma op [(0, some T)]
      Sound s.dev ∧ (dmaAt s.dev 0 0 = some T ∧ T.op = op ∧ T.fault = none ∧ T.held = false ∧ T.row < T.rows ∧ dmaMay s.dev T.ctx = true ∧
        admitted s.dev 0 T = true ∧ dmaNext s.dev 0 T.core = some T.seq ∧ bankFlagged s.dev T.core 6 = false ∧ T.off < T.len ∧
        T.dst + BitVec.ofNat 64 (T.row * T.dstPitch + T.off) = BitVec.ofNat 64 0x300000 ∧
        T.src + BitVec.ofNat 64 (T.row * T.srcPitch + T.off) = BitVec.ofNat 64 0x1000 ∧ min 4096 (T.len - T.off) = 256) ∧
        LocalBytes s.dev T.core 0x1000 256 0x1000 ∧ LocalBytes s.dev T.core 0x300000 256 0x300000) ∧
    ∀ done ∈ [5, 0xFFFF], let T := { dma0 1 with done := done, row := 2 }
      let s := withDma 1 [(0, some T)]
      Sound s.dev ∧ dmaAt s.dev 0 0 = some T ∧ T.rows ≤ T.row ∧ (ctxOf s.dev T.ctx).state ≠ .frozen ∧ T.signalN < 65536 ∧
        TallyActs s.dev 5 1 ∧ (tallyOf s.dev 5).barrier = false ∧ (tallyOf s.dev 5).line = [] := by
  have h1 : ∀ e ∈ [(1, 255), (0, 0), (1, 256)], let s := withDma e.1 (full0.take e.2)
      soundB s.dev = true ∧ ((coreOf s.dev 0).status = .running ∧ (coreOf s.dev 0).held = false ∧ (coreOf s.dev 0).inst = some run0 ∧
        (coreOf s.dev 0).vq = []) ∧ bankFlagged s.dev 0 8 = false ∧ getX (coreOf s.dev 0) f0.rs1 = BitVec.ofNat 64 0x2000 ∧ (∀ n, n < e.2 → dmaAt s.dev 0 n ≠ none) ∧
        dmaAt s.dev 0 e.2 = none ∧
        dmaOk s.dev (parseDma ((List.range 64).map fun j => readByte s.dev.mem (0x2000 + j)) (nextSeq s.dev 0) 0 run0) = (e.1 == 1) := by
    decide +kernel
  have h2 : ∀ op ∈ [1, 3], let T := dma0 op
      let s := withDma op [(0, some T)]
      soundB s.dev = true ∧ dmaAt s.dev 0 0 = some T ∧ T.op = op ∧ T.fault = none ∧ T.held = false ∧ T.row < T.rows ∧
        dmaMay s.dev T.ctx = true ∧ admitted s.dev 0 T = true ∧ dmaNext s.dev 0 T.core = some T.seq ∧ bankFlagged s.dev T.core 6 = false ∧ T.off < T.len ∧
        T.dst + BitVec.ofNat 64 (T.row * T.dstPitch + T.off) = BitVec.ofNat 64 0x300000 ∧
        T.src + BitVec.ofNat 64 (T.row * T.srcPitch + T.off) = BitVec.ofNat 64 0x1000 ∧ min 4096 (T.len - T.off) = 256 := by
    decide +kernel
  have h3 : ∀ done ∈ [5, 0xFFFF], let T := { dma0 1 with done := done, row := 2 }
      let s := withDma 1 [(0, some T)]
      soundB s.dev = true ∧ dmaAt s.dev 0 0 = some T ∧ T.rows ≤ T.row ∧ (ctxOf s.dev T.ctx).state ≠ .frozen ∧ T.signalN < 65536 ∧
        (nodeCtx s.dev 5 = some 1 ∧ (ctxOf s.dev 1).state ≠ .frozen ∧ (ctxOf s.dev 1).harvesting = false ∧ (tallyOf s.dev 5).inuse = true) ∧
        (tallyOf s.dev 5).barrier = false ∧ (tallyOf s.dev 5).line = [] := by decide +kernel
  refine ⟨fun e he => ?_, fun op ho => ?_, fun done hd => ?_⟩
  · obtain ⟨a, b, c, d, e1, f, g⟩ := h1 e he
    exact ⟨soundIf a, executesIf ⟨by decide, b⟩, c, d, .inl (by decide), e1, f, g⟩
  · have local0 (a : Nat) (h : a + 256 ≤ 0x600000) : LocalBytes (withDma op [(0, some (dma0 op))]).dev (dma0 op).core a 256 a :=
      .inl ⟨h, by show a = spKey 0 a; simp [spKey]⟩
    exact ⟨soundIf (h2 op ho).1, (h2 op ho).2, local0 _ (by decide), local0 _ (by decide)⟩
  · obtain ⟨a, b, c, d, e, f, g⟩ := h3 done hd
    exact ⟨soundIf a, b, c, d, e, actsIf f, g⟩

theorem witness_FaultReplies :
    let r : FaultRec := ⟨1, 1, false, true, false, 5, 0x900000, 0, 0xFFFF, 0⟩
    let s := stateOf (ctxUpd (coreUpd (withX [] []).dev 0 fun k => { k with status := .paused, fault := some 5 }) 1 fun k => { k with faults := [r] })
    Sound s.dev ∧ hostUp s.dev = true ∧ sleep s.dev = 0 ∧ (ctxOf s.dev 1).faults.find? (fun r => decide (r.id = 5)) = some r ∧
      (coreOf s.dev 0).fault = some 5 ∧ (coreOf s.dev 0).status = .paused ∧ (coreOf s.dev 0).inst = some run0 ∧
      taskOf s.dev 1 0 = some (task0 .running [0] desc0) ∧ (coreOf s.dev 0).tload = none ∧ (∀ r ∈ (ctxOf s.dev 1).faults, r.id ≠ 6) ∧
      (BitVec.ofNat 64 (6 + 2 ^ 32)).toNat % 2 ^ 32 = 6 := ⟨soundIf (by decide +kernel), by decide +kernel⟩

/-! ### Task graphs -/

/-- The queue of context 1 holds one item at its last slot. -/
def withItem (d : Dev) (b : List Byte) : State :=
  stateOf (sqUpd d 1 fun q => { q with head := 255, tail := 0, slots := writeMem [] (64 * 255) (b ++ zeros (64 - b.length)) })
def submit0 (b : List Byte) : List Byte := b ++ zeros 5 ++ toLE 8 0x10000
def noGraph (d : Dev) : Dev := ctxUpd d 1 fun k => { k with graph := none }

theorem witness_GraphSubmission :
    (let s := withItem (noGraph dev0) (submit0 [1, 1, 0])
     let b (off n : Nat) : Nat := leNat ((List.range n).map fun j => readByte (sqOf s.dev 1).slots (64 * (sqOf s.dev 1).head.toNat + off + j))
     Sound s.dev ∧ (ctxOf s.dev 1).state = .running ∧ sleep s.dev = 0 ∧ (sqOf s.dev 1).error = false ∧ (sqOf s.dev 1).head ≠ (sqOf s.dev 1).tail ∧
       b 0 3 = 0x000101 ∧ b 8 8 = 0x10000 ∧ (ctxOf s.dev 1).graph = none ∧ (ctxOf s.dev 1).ending = false ∧ (sqOf s.dev 1).cqWait = [] ∧
       og s.dev 0x2010 1 = 0 ∧ og s.dev 0x3021 2 = 0) ∧
    (let s := withItem dev0 (submit0 [1, 1, 0])
     Sound s.dev ∧ (ctxOf s.dev 1).graph ≠ none) ∧
    let s := withItem dev0 (submit0 [3, 1, 0])
    Sound s.dev ∧ leNat ((List.range 1).map fun j => readByte (sqOf s.dev 1).slots (64 * 255 + 0 + j)) = 3 :=
  ⟨⟨soundIf (by decide +kernel), by decide +kernel⟩, ⟨soundIf (by decide +kernel), by decide +kernel⟩, soundIf (by decide +kernel),
    by decide +kernel⟩

/-- A graph of one task and one channel; its task waits for two predecessors. -/
def graphBytes (tasks : Nat) : List Byte :=
  toLE 8 0x10080 ++ toLE 4 tasks ++ toLE 4 42 ++ toLE 8 0x11000 ++ toLE 8 0x10400 ++ toLE 1 1 ++ zeros 31
def taskBytes : List Byte :=
  toLE 8 0x1000 ++ toLE 8 7 ++ toLE 4 1 ++ toLE 1 3 ++ toLE 1 3 ++ toLE 2 5 ++ toLE 2 7 ++ toLE 2 2 ++ zeros 44 ++ toLE 4 100 ++ zeros 52
def chanBytes : List Byte := [0, 1, 1, 2, 0xFF, 0xFF, 0xFF, 0xFF] ++ zeros 8
def graph1 : Graph := { graph0 with accepted := false, tasks := [], taskCount := 0, id := 0, complBase := 0, taskBase := 0 }
def withGraph (tasks : Nat) : State :=
  let d := { dev0 with mem := writeMem (writeMem (writeMem [] (hostKey 0x100000) (graphBytes tasks)) (hostKey 0x100080) taskBytes) (hostKey 0x100400) chanBytes }
  stateOf (ctxUpd d 1 fun k => { k with graph := some graph1 })

theorem readsIf {d : Dev} {x va : Nat} {b : List Byte}
    (h : usable d x va b.length false = true ∧ hostWaits d x va b.length = false ∧ (unitRead d x va b.length).1 = some b) :
    UnitReads d x va b := h

theorem witness_GraphAcceptance :
    (let s := withGraph 1
     let b := graphBytes 1
     let ts := [parseTask taskBytes]
     let cs := [parseChan chanBytes]
     Sound s.dev ∧ s.dev.upset = [] ∧ s.dev.poison = [] ∧ (ctxOf s.dev 1).state = .running ∧ (ctxOf s.dev 1).graph = some graph1 ∧ b.length = 64 ∧
       UnitReads s.dev 1 graph1.va.toNat b ∧ graphOk graph1.va b = true ∧ ts.length = fld b 8 4 ∧ cs.length = fld b 32 1 ∧
       (∀ i t, ts[i]? = some t → taskValid s.dev 1 t = true ∧ taskAgrees (ts.take i) t = true ∧
         ∃ r, r.length = 128 ∧ UnitReads s.dev 1 (fld b 0 8 + 128 * i) r ∧ t = parseTask r) ∧
       ∀ i h, cs[i]? = some h → chanOk s.dev 1 (cs.take i) h = true ∧
         ∃ r, r.length = 16 ∧ UnitReads s.dev 1 (fld b 24 8 + 16 * i) r ∧ h = parseChan r) ∧
    let s := withGraph 0
    Sound s.dev ∧ (graphBytes 0).length = 64 ∧ UnitReads s.dev 1 graph1.va.toNat (graphBytes 0) ∧ graphOk graph1.va (graphBytes 0) = false := by
  refine ⟨⟨soundIf (by decide +kernel), by decide +kernel, by decide +kernel, by decide +kernel, by decide +kernel, by decide +kernel,
    readsIf (by decide +kernel), by decide +kernel, by decide +kernel, by decide +kernel, fun i t h => ?_, fun i t h => ?_⟩,
    soundIf (by decide +kernel), by decide +kernel, readsIf (by decide +kernel), by decide +kernel⟩
  · rcases i with _ | i
    · obtain rfl := Option.some.inj h
      exact ⟨by decide +kernel, by decide +kernel, taskBytes, by decide +kernel, readsIf (by decide +kernel), rfl⟩
    · cases h
  · rcases i with _ | i
    · obtain rfl := Option.some.inj h
      exact ⟨by decide +kernel, chanBytes, by decide +kernel, readsIf (by decide +kernel), rfl⟩
    · cases h

/-- Three tasks are queued at cluster 0; that of the highest priority is in the middle. -/
theorem witness_InstanceStarts :
    let z (p : Nat) : TaskSt := task0 .ready [] { desc0 with prio := p }
    let g := { graph0 with tasks := [(0, some (z 1)), (1, some (z 3)), (2, some (z 3))] }
    let d := { dev0 with clusters := [(0, { Cluster.reset with ready := [(1, 0), (1, 1), (1, 2)] })] }
    let s := stateOf (ctxUpd d 1 fun k => { k with graph := some g })
    Sound s.dev ∧ holder s.dev 0 = some 1 ∧ (ctxOf s.dev 1).state = .running ∧ (ctxOf s.dev 1).graph = some g ∧ g.accepted = true ∧
      g.stopped = false ∧ coreFree s.dev 2 = true ∧ (clusterOf s.dev 0).ready = [(1, 0)] ++ (1, 1) :: [(1, 2)] ∧ canStart s.dev 1 2 1 = true ∧
      taskOf s.dev 1 1 = some (z 3) ∧ prioOf s.dev 1 0 < (z 3).desc.prio ∧ prioOf s.dev 1 2 ≤ (z 3).desc.prio :=
  ⟨soundIf (by decide +kernel), by decide +kernel⟩

/-- Context 0 is idle and context 1 runs: none is on its way to a harvest. -/
theorem noHarvest1 {d : Dev} {k : Ctx} (hk : k.state = .running) (h : d.ctxs = [(0, { Ctx.reset with state := .idle }), (1, k)]) : NoHarvest d :=
  noHarvestIf fun e he => by
    rw [h] at he
    simp only [List.mem_cons, List.not_mem_nil, or_false] at he
    rcases he with rfl | rfl
    · exact ⟨nofun, nofun⟩
    · exact ⟨fun h => (by cases hk.symm.trans h), fun h => (by cases hk.symm.trans h)⟩

/-- A task that has run out, with and without NOTIFY; one that runs; and a graph whose one task is done. -/
def withTask (z : TaskSt) : State := stateOf (ctxUpd dev0 1 fun k => { k with graph := some { graph0 with tasks := [(0, some z)] } })

theorem witness_TaskEnds :
    (∀ n ∈ [true, false], let z := { task0 .running [0, 1, 2] { desc0 with notify := n } with ended := [0, 1, 2] }
      let s := withTask z
      Sound s.dev ∧ (∀ y, harvestDue s.dev y = false) ∧ (ctxOf s.dev 1).state = .running ∧ (ctxOf s.dev 1).ending = false ∧
        (ctxOf s.dev 1).graph = some { graph0 with tasks := [(0, some z)] } ∧ taskOf s.dev 1 0 = some z ∧ z.phase = .running ∧
        taskOver s.dev 1 0 { graph0 with tasks := [(0, some z)] } z = true ∧ z.desc.stats = 0 ∧ z.desc.succCount = 0 ∧
        hostWaits s.dev 1 graph0.complBase 64 = false) ∧
    (let z := task0 .running [0] desc0
     let s := withTask z
     Sound s.dev ∧ taskOf s.dev 1 0 = some z ∧ z.desc.timeout ≠ 0 ∧ z.fault = none ∧ z.cancelled = false) ∧
    (let z := task0 (.done 0) [0] desc0
     let s := withTask z
     Sound s.dev ∧ (∀ y, harvestDue s.dev y = false) ∧ graphOver s.dev 1 { graph0 with tasks := [(0, some z)] } = true ∧
       hostWaits s.dev 1 (graph0.complBase + 64 * graph0.taskCount) 64 = false) ∧
    let s := withTask (task0 .running [0] desc0)
    hostUp s.dev = true ∧ (ctxOf s.dev 1).state ≠ .frozen ∧ (ctxOf s.dev 1).graph.map (fun g => g.cancelled) = some false := by
  have nh (z : TaskSt) : ∀ y, harvestDue (withTask z).dev y = false :=
    noHarvest_due (noHarvest1 (k := { Ctx.reset with state := .running, graph := some { graph0 with tasks := [(0, some z)] } }) rfl rfl)
  have h : ∀ n ∈ [true, false], let z := { task0 .running [0, 1, 2] { desc0 with notify := n } with ended := [0, 1, 2] }
      let s := withTask z
      soundB s.dev = true ∧ (ctxOf s.dev 1).state = .running ∧ (ctxOf s.dev 1).ending = false ∧
        (ctxOf s.dev 1).graph = some { graph0 with tasks := [(0, some z)] } ∧ taskOf s.dev 1 0 = some z ∧ z.phase = .running ∧
        taskOver s.dev 1 0 { graph0 with tasks := [(0, some z)] } z = true ∧ z.desc.stats = 0 ∧ z.desc.succCount = 0 ∧
        hostWaits s.dev 1 graph0.complBase 64 = false := by decide +kernel
  exact ⟨fun n hn => ⟨soundIf (h n hn).1, nh _, (h n hn).2⟩, ⟨soundIf (by decide +kernel), by decide +kernel⟩,
    ⟨soundIf (by decide +kernel), nh _, by decide +kernel⟩, by decide +kernel⟩

/-- A channel from region 1 of cluster 0 to region 2 of cluster 1. -/
def chan0 : Chan := ⟨0, 1, 1, 2, 0xFFFF, 0xFFFF, none, false⟩
def withChan (h : Chan) (r w : Region) : State :=
  let cs := [(0, { Cluster.reset with regions := [(1, r)] }), (1, { Cluster.reset with regions := [(2, w)] })]
  stateOf (ctxUpd { dev0 with clusters := cs } 1 fun k => { k with graph := some { graph0 with chans := [h] } })

def reg1 : Region := { reg0 with base := 0x1001000, count := 1 }

/-- An item that may move, from a region whose taken item a flush has discarded too and to one whose open item it has; one whose regions
differ; and an item in flight to each of these ends. -/
def items0 : List (Chan × Region × Region) :=
  let full := { chan0 with flight := some (List.replicate 64 7, List.replicate 64 false) }
  [(chan0, reg0, reg1), (chan0, { reg0 with discC := true, old := 2 }, { reg1 with discP := true }), (chan0, reg0, { reg1 with item := 32 }),
    (full, { reg0 with taken := true }, { reg1 with opened := true }), (full, { reg0 with discC := true }, { reg1 with discP := true })]

theorem witness_ChannelItems :
    (∀ e ∈ items0, let s := withChan e.1 e.2.1 e.2.2
      Sound s.dev ∧ s.dev.upset = [] ∧ s.dev.poison = [] ∧ (∀ y, harvestDue s.dev y = false) ∧ ChannelAt s.dev 1 0 e.1 e.2.1 e.2.2 ∧
        (ctxOf s.dev 1).state = .running ∧ (ctxOf s.dev 1).harvesting = false ∧ fabricFlagged s.dev 0 2 = false ∧ e.1.stopped = false ∧
        e.2.1.valid = true ∧ e.2.2.valid = true ∧ e.2.1.count ≠ 0 ∧ e.2.2.count < e.2.2.cap) ∧
    (∀ b ∈ List.replicate 64 false, b = false) ∧ (List.replicate 64 (7 : Byte)).length = reg1.item ∧
    LocalBytes (withChan chan0 reg0 reg1).dev 0 (reg0.base + takenItem reg0 * 64) 64 (shKey 0 64) ∧
    LocalBytes (withChan chan0 reg0 reg1).dev 8 (reg1.base + reg1.tail * 64) 64 (shKey 1 0x10C0) := by
  have nh (h : Chan) (r w : Region) : ∀ y, harvestDue (withChan h r w).dev y = false :=
    noHarvest_due (noHarvest1 (k := { Ctx.reset with state := .running, graph := some { graph0 with chans := [h] } }) rfl rfl)
  have hs : ∀ e ∈ items0, let s := withChan e.1 e.2.1 e.2.2
      soundB s.dev = true ∧
        ((ctxOf s.dev 1).graph = some { graph0 with chans := [e.1] } ∧ graph0.accepted = true ∧ [e.1][0]? = some e.1 ∧
          e.2.1 = regionOf s.dev e.1.srcCl e.1.srcRg ∧ e.2.2 = regionOf s.dev e.1.dstCl e.1.dstRg ∧
          (e.1.srcCl, e.1.srcRg) ≠ (e.1.dstCl, e.1.dstRg)) ∧
        (ctxOf s.dev 1).state = .running ∧ (ctxOf s.dev 1).harvesting = false ∧ fabricFlagged s.dev 0 2 = false ∧ e.1.stopped = false ∧
        e.2.1.valid = true ∧ e.2.2.valid = true ∧ e.2.1.count ≠ 0 ∧ e.2.2.count < e.2.2.cap := by decide +kernel
  exact ⟨fun e he => ⟨soundIf (hs e he).1, rfl, rfl, nh _ _ _, ⟨_, (hs e he).2.1⟩, (hs e he).2.2⟩, by decide, by decide,
    .inr (by decide +kernel), .inr (by decide +kernel)⟩

/-! ### Object writes, contexts and memory of contexts -/

theorem witness_ObjectWrites :
    Sound dev0 ∧ Ready dev0 ∧ objEntry 0x1234 1 = none ∧ objEntry 0x1000 7 = some (.ro, .u 1) ∧ lengthOk (.u 1) 2 = false ∧
      lengthOk (.u 1) 1 = true ∧ (objEntry 0x1000 1).map (fun e => e.1) = some .const ∧ objEntry 0x9010 1 = some (.sealed, .u 8) ∧
      lengthOk (.u 8) 8 = true ∧ (objEntry 0x1000 8).map (fun e => e.1) = some .wonce ∧
      (∃ d, Sound d ∧ Ready d ∧ d.mgmt.asset ≠ none) ∧ writeStatus dev0 0x1000 7 [1] [] ≠ 0 ∧ plainObject 0x7010 4 = true ∧
      writeStatus dev0 0x7010 4 (toLE 2 4096) [] = 0 :=
  ⟨sound_of_soundB (by decide +kernel), ⟨by decide +kernel, by decide +kernel, by decide +kernel, by decide +kernel, by decide +kernel⟩,
    by decide +kernel, by decide +kernel, by decide +kernel, by decide +kernel, by decide +kernel, by decide +kernel, by decide +kernel,
    by decide +kernel, ⟨{ dev0 with mgmt := { dev0.mgmt with asset := some [1] } }, sound_of_soundB (by decide +kernel),
      ⟨by decide +kernel, by decide +kernel, by decide +kernel, by decide +kernel, by decide +kernel⟩, by decide⟩,
    by decide +kernel, by decide +kernel, by decide +kernel⟩

/-- A package with ctx 1 on cluster 0, a harvest area of 34 HBM pages at 0x40000000 as its area 0, and SEQ 7 complete in it. -/
def header0 : List Byte :=
  toLE 4 7 ++ toLE 4 0 ++ toLE 4 1 ++ toLE 4 0 ++ toLE 8 99 ++ toLE 8 0 ++ toLE 4 0 ++ toLE 4 0 ++ zeros 20 ++ toLE 4 1
def big0 : Dev :=
  let pages := (List.range 34).map fun i => (pageKey 1 (0x40000000 + i * 0x200000), some (page 0 (some (256 + i)) 0))
  let used := (List.range 34).map fun i => (256 + i, true)
  let obj := [(okey 0x1000 7, 1), (okey 0x4040 2, 0x40000000), (okey 0x5010 2, 1), (okey 0x603F 1, 0x18)]
  { dev0 with vm := ⟨pages, used, [], 10⟩, mem := writeMem [] (frameKey 0 256) header0, obj := obj }
def bigCtx (st : CState) (g : Option Graph) : State := withCtx big0 fun k => { k with state := st, graph := g }

/-- The area of `big0` lies in HBM, so context 1 may be harvested and restored. -/
theorem inHbm_big : inHbm big0 1 0x40000000 (areaBytes 1) true = true := by decide +kernel

theorem inHbm_of {d : Dev} (hv : d.vm = big0.vm) (w : Bool) : inHbm d 1 0x40000000 (areaBytes 1) w = true := by
  have h := inHbm_big
  unfold inHbm pageAt pageHome at h ⊢
  rw [hv]
  rw [List.all_eq_true] at h ⊢
  intro e he
  have := h e he
  split at this <;> simp_all

theorem areasOk_of {d : Dev} (hv : d.vm = big0.vm) (h : areaVa d 1 0 = 0x40000000 ∧ areaVa d 1 1 = 0 ∧ maskOf d 1 = 1) : areasOk d 1 = true := by
  simp [areasOk, h.1, h.2.1, h.2.2, inHbm_of hv]

theorem header_of {d : Dev} (hv : d.vm = big0.vm) (h : areaVa d 1 0 = 0x40000000 ∧ areaVa d 1 1 = 0 ∧ maskOf d 1 = 1)
    (hr : (readArea d 1 0x40000000 64).1 = header0) : areaHeader d 1 0 = header0 := by
  simp [areaHeader, h.1, h.2.2, inHbm_of hv, hr]

theorem complete_of {d : Dev} (hv : d.vm = big0.vm) (h : areaVa d 1 0 = 0x40000000 ∧ areaVa d 1 1 = 0 ∧ maskOf d 1 = 1)
    (hr : (readArea d 1 0x40000000 64).1 = header0) : areaComplete d 1 0 = true := by
  unfold areaComplete
  rw [header_of hv h hr, h.2.2]
  decide

theorem adopts_of {d : Dev} (hv : d.vm = big0.vm) (h : areaVa d 1 0 = 0x40000000 ∧ areaVa d 1 1 = 0 ∧ maskOf d 1 = 1)
    (hr : (readArea d 1 0x40000000 64).1 = header0) : areaAdopts d 1 0 = true := by
  simp [areaAdopts, areaServes, complete_of hv h hr, h.1, h.2.2, inHbm_of hv]

theorem newest_of {d : Dev} (hv : d.vm = big0.vm) (h : areaVa d 1 0 = 0x40000000 ∧ areaVa d 1 1 = 0 ∧ maskOf d 1 = 1)
    (hr : (readArea d 1 0x40000000 64).1 = header0) : newestArea d 1 = some 0 := by
  have h0 : areaComplete d 1 0 = true := complete_of hv h hr
  have h1 : areaComplete d 1 1 = false := by
    have hz : areaHeader d 1 1 = zeros 64 := by
      unfold areaHeader
      rw [if_pos h.2.1]
    unfold areaComplete
    rw [hz, h.2.2]
    decide
  simp [newestArea, h0, h1]

/-- An accepted code written to STATE of context 1. -/
theorem status_of {d : Dev} {code : Nat} (hc : code < 256) (h : stateCheck d 1 code = 0) (hs : starting d 0x5010 = false) :
    writeStatus d 0x5010 1 (toLE 4 code) [] = 0 := by
  have hv : leNat (toLE 4 code) = code := by
    rw [leNat_toLE]
    omega
  have he : objEntry 0x5010 1 = some (.rw, .u 4) := by decide
  simp [writeStatus, he, lengthOk, objectCheck, ctxWriteCheck, hv, h, hs]

def readyB (d : Dev) : Bool :=
  d.power.vaux && bootDone d && decide (og d 0x1000 7 = 1) && decide (sleep d = 0) && decide (d.mgmt.queue = [])

theorem readyOf {d : Dev} (h : readyB d = true) : Ready d := by
  simp only [readyB, Bool.and_eq_true, decide_eq_true_eq] at h
  exact ⟨h.1.1.1.1, h.1.1.1.2, h.1.1.2, h.1.2, h.2⟩

/-- Each command of STATE in a state that takes it, and in one that refuses it. -/
theorem witness_ContextCommands :
    (∀ e ∈ [(CState.free, none), (.idle, none), (.running, some graph0), (.harvested, none), (.frozen, none)],
      Sound (bigCtx e.1 e.2).dev ∧ Ready (bigCtx e.1 e.2).dev ∧ HasCluster (bigCtx e.1 e.2).dev 1 0 ∧ (ctxOf (bigCtx e.1 e.2).dev 1).state = e.1 ∧
        (ctxOf (bigCtx e.1 e.2).dev 1).graph = e.2) ∧
    (∀ cl, HasCluster (bigCtx .free none).dev 1 cl → holder (bigCtx .free none).dev cl = none ∧
      (clusterOf (bigCtx .free none).dev cl).zeroing = false ∧ (clusterOf (bigCtx .free none).dev cl).unassigned = false) ∧
    (∀ code ∈ [4, 5, 7], writeStatus (bigCtx .idle none).dev 0x5010 1 (toLE 4 code) [] = 0) ∧ ringTrains (bigCtx .idle none).dev 1 = 0 ∧
    writeStatus (bigCtx .harvested none).dev 0x5010 1 (toLE 4 6) [] = 0 ∧
    (∀ code ∈ [1, 6], writeStatus (bigCtx .idle none).dev 0x5010 1 (toLE 4 code) [] ≠ 0) ∧
    (∀ code ∈ [2, 3, 7], writeStatus (bigCtx .free none).dev 0x5010 1 (toLE 4 code) [] ≠ 0) ∧
    ∀ code ∈ [4, 5], writeStatus (bigCtx .frozen none).dev 0x5010 1 (toLE 4 code) [] ≠ 0 := by
  have h : ∀ e ∈ [(CState.free, none), (.idle, none), (.running, some graph0), (.harvested, none), (.frozen, none)],
      soundB (bigCtx e.1 e.2).dev = true ∧ readyB (bigCtx e.1 e.2).dev = true ∧
        ((0 < 32) ∧ (maskOf (bigCtx e.1 e.2).dev 1).testBit 0 = true) ∧ (ctxOf (bigCtx e.1 e.2).dev 1).state = e.1 ∧
        (ctxOf (bigCtx e.1 e.2).dev 1).graph = e.2 := by decide +kernel
  have hf : ∀ cl, cl < 32 → (maskOf (bigCtx .free none).dev 1).testBit cl = true → holder (bigCtx .free none).dev cl = none ∧
      (clusterOf (bigCtx .free none).dev cl).zeroing = false ∧ (clusterOf (bigCtx .free none).dev cl).unassigned = false := by decide +kernel
  refine ⟨fun e he => ⟨soundIf (h e he).1, readyOf (h e he).2.1, (h e he).2.2⟩, fun cl hc => hf cl hc.1 hc.2, fun code hc => ?_, by decide +kernel, ?_, by decide +kernel⟩
  · have hi : areasOk (bigCtx .idle none).dev 1 = true := areasOk_of rfl (by decide +kernel)
    have ha : areaAdopts (bigCtx .idle none).dev 1 0 = true := adopts_of rfl (by decide +kernel) (by decide +kernel)
    have hs : (ctxOf (bigCtx .idle none).dev 1).state = .idle ∧ (ctxOf (bigCtx .idle none).dev 1).graphsRun = false := by decide +kernel
    simp only [List.mem_cons, List.not_mem_nil, or_false] at hc
    rcases hc with rfl | rfl | rfl
    · refine status_of (by decide) ?_ (by decide +kernel)
      simp [stateCheck, hi, hs.1]
    · refine status_of (by decide) ?_ (by decide +kernel)
      simp [stateCheck, hi, hs.1]
    · refine status_of (by decide) ?_ (by decide +kernel)
      simp [stateCheck, ha, hs.1, hs.2]
  · have hn : newestArea (bigCtx .harvested none).dev 1 = some 0 := newest_of rfl (by decide +kernel) (by decide +kernel)
    have hs : (ctxOf (bigCtx .harvested none).dev 1).state = .harvested ∧ clustersBusy (bigCtx .harvested none).dev 1 = false ∧
      og (bigCtx .harvested none).dev 0x2010 1 ≠ 1 := by decide +kernel
    refine status_of (by decide) ?_ (by decide +kernel)
    simp [stateCheck, hn, hs.1, hs.2.1, hs.2.2]

/-- What the harvest of `big0`'s area saved, and the package that this harvest is the first of. -/
def snap0 : Snapshot := { (default : Snapshot) with seq := 7, began := 99, mask := 1, cores := [(0, core0 [(1, 5)])], graph := some graph0 }
def restoring0 : Dev := { (withCtx big0 fun k => { k with state := .restoring }).dev with images := [snap0] }

/-- A harvest that may end, a scrub of cluster 0, and a restore of the newest area. -/
theorem witness_ContextMoves :
    (let s := withCtx big0 fun k => { k with state := .preempting, harvesting := true, hkind := 2 }
     let va := areaVa s.dev 1 (nextArea s.dev 1)
     Sound s.dev ∧ s.dev.upset = [] ∧ s.dev.poison = [] ∧ NoReclaim s.dev ∧ (ctxOf s.dev 1).state = .preempting ∧
       (ctxOf s.dev 1).harvesting = true ∧ va % 65536 = 0 ∧ va + 65536 ≤ 2 ^ 52 ∧ pageAt s.dev 1 va = some (page 0 (some 256) 0) ∧
       ∀ cl, HasCluster s.dev 1 cl → (clusterOf s.dev cl).cache = []) ∧
    (let s := stateOf (clusterUpd (withCtx big0 fun k => { k with state := .scrubbing }).dev 0 fun k => { k with zeroing := true })
     Sound s.dev ∧ NoReclaim s.dev ∧ (ctxOf s.dev 1).state = .scrubbing ∧ (ctxOf s.dev 1).adopting = false ∧
       ∃ cl, HasCluster s.dev 1 cl ∧ (clusterOf s.dev cl).zeroing = true) ∧
    let d := restoring0
    Sound d ∧ NoReclaim d ∧ (ctxOf d 1).state = .restoring ∧ (∀ y, (ctxOf d y).state ≠ .preempting) ∧ newestArea d 1 = some 0 ∧
      d.images[leNat (readArea d 1 (areaVa d 1 0 + 0x4000) 8).1]? = some snap0 ∧
      (snap0.seq = fld (areaHeader d 1 0) 0 4 ∧ snap0.began.toNat = fld (areaHeader d 1 0) 0x10 8 ∧ snap0.mask = fld (areaHeader d 1 0) 8 4 ∧
        fld (areaHeader d 1 0) 0x24 4 = 0 ∧ fld (areaHeader d 1 0) 0x20 4 = 0) ∧ HasCluster d 1 (0 / 8) ∧ Rising snap0.cores ∧
      ∀ e ∈ snap0.cores, CoreSound e.2 := by
  refine ⟨⟨soundIf (by decide +kernel), rfl, rfl, noReclaimIf (by decide +kernel) (by decide +kernel), by decide +kernel, by decide +kernel,
    by decide +kernel, by decide +kernel, by decide +kernel, fun _ _ => rfl⟩, ⟨soundIf (by decide +kernel),
    noReclaimIf (by decide +kernel) (by decide +kernel), by decide +kernel, by decide +kernel, 0, ⟨by decide, by decide +kernel⟩, by decide +kernel⟩,
    sound_of_soundB (by decide +kernel), noReclaimIf (by decide +kernel) (by decide +kernel), by decide +kernel,
    look_of (P := fun k : Ctx => k.state ≠ .preempting) (by decide) (by decide +kernel), newest_of rfl (by decide +kernel) (by decide +kernel),
    by decide +kernel, ?_, ⟨by decide, by decide +kernel⟩, rising_of_risingB (by decide), ?_⟩
  · rw [header_of (d := restoring0) rfl (by decide +kernel) (by decide +kernel)]
    decide
  · intro e he
    obtain rfl := List.mem_singleton.1 he
    exact ⟨rising_of_risingB (by decide), rising_of_risingB (by decide), rising_of_risingB (by decide), rising_of_risingB (by decide)⟩

theorem witness_PageReclaim :
    let s := withCtx (oset (oset dev0 0x5010 3 0) 0x5010 8 1) fun k => { k with state := .harvested }
    Sound s.dev ∧ s.dev.upset = [] ∧ s.dev.poison = [] ∧ reclaimDue s.dev 1 = true ∧ (ctxOf s.dev 1).state = .harvested ∧
      (ctxOf s.dev 1).stalled = false ∧ nextPage s.dev 1 = some (pageKey 1 0x200000, page 0 (some 256) 0) ∧ tierRoom s.dev 1 = true :=
  ⟨soundIf (by decide +kernel), rfl, rfl, by decide +kernel⟩

/-- A request of two pages of a kind. -/
def mapBytes (op kind : Nat) (va : Nat) : List Byte :=
  toLE 1 op ++ toLE 1 1 ++ toLE 1 kind ++ toLE 1 1 ++ toLE 4 2 ++ toLE 8 va ++ toLE 8 0x200000 ++ zeros 8

theorem witness_PageMapping :
    Sound dev0 ∧ Ready dev0 ∧ NoReclaim dev0 ∧
      (∀ e ∈ [mapBytes 1 0 0x800000, mapBytes 1 2 0x20000, mapBytes 2 2 0, mapBytes 3 2 0], e.length = 32) ∧
      (parseMap (mapBytes 1 0 0x800000)).op = 1 ∧ mapCheck dev0 (mapBytes 1 0 0x800000) = 0 ∧ mapCheck dev0 (mapBytes 1 2 0x20000) = 0 ∧
      (parseMap (mapBytes 2 0 0x200000)).op = 2 ∧ mapCheck dev0 (mapBytes 2 0 0x200000) = 0 ∧
      (parseMap (mapBytes 3 0 0x200000)).op = 3 ∧ mapCheck dev0 (mapBytes 3 0 0x200000) = 0 ∧
      ∀ op ∈ [1, 2, 3], mapCheck dev0 (mapBytes op 0 1) ≠ 0 :=
  ⟨sound_of_soundB (by decide +kernel), readyOf (by decide +kernel), noReclaimIf (by decide) (by decide), by decide +kernel⟩

/-- An image of one shard of 0xC0 bytes with one tensor, and requests to load and to cancel it. -/
def image0 : List Byte :=
  toLE 4 0x4F4E4D4C ++ toLE 2 1 ++ toLE 2 1 ++ zeros 8 ++ toLE 8 64 ++ zeros 40 ++ (toLE 8 128 ++ toLE 8 0xC0) ++ zeros 48 ++
    (toLE 2 0 ++ toLE 2 1 ++ toLE 1 0 ++ zeros 3 ++ toLE 4 1 ++ zeros 52) ++
    (zeros 6 ++ toLE 1 3 ++ toLE 1 0 ++ toLE 4 64 ++ zeros 4 ++ toLE 8 0x80 ++ toLE 8 64) ++ zeros 32 ++ List.replicate 64 9
def loadBytes (op : Nat) : List Byte :=
  toLE 1 op ++ toLE 1 1 ++ zeros 14 ++ toLE 8 0x200000 ++ toLE 8 0xC0 ++ toLE 8 0x400000 ++ zeros 24

/-- A load of path `path` whose first 64 bytes have landed. -/
def withLoad (path : Nat) (again : Bool) : State :=
  withCtx dev0 fun k => { k with load := ⟨1, 0, path, 0x200000, 0xC0, 0, 0xC0, 64, 0, 7, 0, if 2 ≤ path then some 1 else none, again⟩ }

theorem witness_WeightLoads :
    (Sound dev0 ∧ Ready dev0 ∧ NoReclaim dev0 ∧ dev0.upset = [] ∧ dev0.poison = [] ∧ (loadBytes 1).length = 64 ∧ (parseLoad (loadBytes 1)).ctx = 1 ∧
      (parseLoad (loadBytes 1)).op = 1 ∧ loadCheck dev0 (loadBytes 1) image0 = 0 ∧ loadWaits dev0 (loadBytes 1) = false ∧
      (parseLoad (loadBytes 2)).op = 2) ∧
    (∀ path ∈ [0, 2, 3], ∀ again ∈ [false, true], let s := withLoad path again
      let l := (ctxOf s.dev 1).load
      Sound s.dev ∧ l.state = 1 ∧ l.path = path ∧ l.reissued = again ∧ s.dev.host.busMaster = true ∧ s.dev.upset = [] ∧ s.dev.poison = [] ∧
        l.bytes < l.length ∧ 128 ≤ l.room ∧ 128 ≤ 65536 - l.at l.bytes % 65536 ∧ l.at l.bytes + 128 ≤ 2 ^ 52 ∧
        PageByte s.dev 1 (l.at l.bytes) (frameKey 0 256 + 64) (page 0 (some 256) 0)) ∧
    let s := stateOf (oset dev0 0x4073 2 1)
    Sound s.dev ∧ og s.dev 0x4073 (1 + 1) = 1 ∧ usable s.dev 1 0x1FFFF 1 false = true ∧ 1 ≤ 65536 - 0x1FFFF % 65536 ∧
      PageByte s.dev 1 0x1FFFF (hostKey 0x10FFFF) (page 2 none 0x100000) := by
  have h : ∀ path ∈ [0, 2, 3], ∀ again ∈ [false, true], let s := withLoad path again
      let l := (ctxOf s.dev 1).load
      soundB s.dev = true ∧ (l.state = 1 ∧ l.path = path ∧ l.reissued = again ∧ s.dev.host.busMaster = true ∧ s.dev.upset = [] ∧ s.dev.poison = [] ∧
        l.bytes < l.length ∧ 128 ≤ l.room ∧ 128 ≤ 65536 - l.at l.bytes % 65536 ∧ l.at l.bytes + 128 ≤ 2 ^ 52) ∧
        pageAt s.dev 1 (l.at l.bytes) = some (page 0 (some 256) 0) ∧ frameKey 0 256 + 64 = frameKey 0 256 + l.at l.bytes % 2097152 := by
    decide +kernel
  refine ⟨⟨sound_of_soundB (by decide +kernel), readyOf (by decide +kernel), noReclaimIf (by decide) (by decide), by decide +kernel⟩,
    fun path hp again ha => ?_,
    soundIf (by decide +kernel), by decide +kernel, by decide +kernel, by decide, by decide +kernel, .inl (by decide +kernel)⟩
  obtain ⟨a, ⟨b, c, d, e, f, g, h1, h2, h3, h4⟩, k, l⟩ := h path hp again ha
  exact ⟨soundIf a, b, c, d, e, f, g, h1, h2, h3, h4, k, .inr ⟨by decide, 256, rfl, l⟩⟩

/-! ### Upkeep of the chip -/

/-- No context holds a cluster. -/
def noHeld (d : Dev) : Dev := ctxUpd d 1 fun k => { k with state := .free, graph := none }

theorem witness_ChipUpkeep :
    Sound dev0 ∧ Ready dev0 ∧ patrolKey 3 31 255 1023 ≠ none ∧ patrolKey 1 255 47 1023 ≠ none ∧ dev0.power.state < 3 ∧ dev0.poison = [] ∧
      dev0.upset = [] ∧ og dev0 0x8010 1 < 2 ^ 64 ∧ og dev0 0x7020 (3 + 1) < 2 ^ 32 ∧ canFreeze dev0 1 = true ∧ (toLE 4 5).length = 4 ∧
      (ctxOf dev0 1).ending = false ∧ dev0.host.held = [] ∧ divisionCheck (noHeld dev0) 0x4010 31 1 = 0 ∧ divisionCheck (noHeld dev0) 0x4011 0 1 = 0 ∧
      (let l := [(511, 63, 10), (4, 2, 5), (511, 1, 9)]
       (∀ e ∈ l, e.1 < 512 ∧ e.2.1 < 64) ∧ (∀ c, c < 512 → c ≠ 511 → channelSum l c < channelSum l 511) ∧
         (∀ y, y < 64 → y ≠ 63 → channelCtxSum l 511 y < channelCtxSum l 511 63) ∧ channelSum l 511 < (l.map fun e => e.2.2).sum) ∧
      LocalBytes dev0 255 0x5FFFFC 4 (spKey 255 0x5FFFFC) ∧ (clusterOf dev0 31).zeroing = false ∧
      (clusterOf (clusterUpd dev0 31 fun k => { k with zeroing := true }) (255 / 8)).zeroing = true :=
  ⟨sound_of_soundB (by decide +kernel), readyOf (by decide +kernel), by decide +kernel, by decide +kernel, by decide, rfl, rfl, by decide +kernel,
    by decide +kernel, by decide +kernel, by decide, rfl, rfl, by decide +kernel, by decide +kernel, by decide +kernel, .inl (by decide), by decide,
    by decide +kernel⟩

/-! ### The ring -/

def linkA : Link := { Link.reset with state := .active, lit := 0x3FFFF, now := 0x3FFFF, used := 0xFFFF, credit2 := 8, credits := [(2, 8), (3, 8)] }

/-- All links active; a ring of four packages, this one at position 1, UP; context 1 bound to it when `bound`. -/
def ringDev (bound : Bool) (m : Mem) : Dev :=
  let obj := [(okey 0x1000 7, 1), (okey 0x3000 1, 1), (okey 0x3000 2, 4), (okey 0x3000 3, 1), (okey 0x3000 4, 77), (okey 0x3000 5, 2)] ++
    (if bound then [(okey 0x3020 2, 1)] else []) ++ [(okey 0x3022 2, 0x10000), (okey 0x3023 2, 1), (okey 0x3024 2, 0x10000), (okey 0x3025 2, 1),
      (okey 0x3027 2, 64), (okey 0x5010 2, 3), (okey 0x603F 1, 0x18)]
  { dev0 with obj := obj, links := (List.range 19).map fun l => (l, linkA), mem := m, tallies := [(3, count0 3)] }

/-- A send entry of 300 weight units of four bytes from HBM, 3 units to a train, with a GO tally. -/
def sendBytes (go goN : Nat) : List Byte :=
  toLE 1 1 ++ toLE 1 0 ++ toLE 2 3 ++ toLE 4 9 ++ toLE 8 0x200000 ++ toLE 4 0 ++ toLE 4 300 ++ toLE 2 go ++ toLE 2 goN ++ toLE 2 0xFFFF ++
    toLE 1 3 ++ zeros 1
def withSend (bound : Bool) (b : List Byte) (l : SendList) : State :=
  stateOf (ctxUpd (ringDev bound (writeMem [] (hostKey 0x100000) b)) 1 fun k => { k with east := l })

theorem sendsIf {d : Dev} {x dir : Nat} {b : List Byte} (h : b.length = 32 ∧ entryOk d x dir (parseSend b) = true ∧
    (sendOf (ctxOf d x) dir).entry = 0 ∧ (sendOf (ctxOf d x) dir).first = some b) : SendsNext d x dir (parseSend b) :=
  ⟨b, h.1, rfl, h.2.1, by rw [if_pos h.2.2.1, h.2.2.2]⟩

/-- The partners of a ring that forms, and of one that does not; its west links in state `st`. -/
def partner (name pos : Nat) : List Byte := toLE 8 5 ++ toLE 8 1 ++ toLE 2 0 ++ toLE 4 name ++ toLE 2 4 ++ toLE 2 pos ++ zeros 38
def forming (east west : Nat) (st : LinkState) : Dev :=
  { oset (ringDev false []) 0x3000 5 1 with
    links := (List.range 19).map fun l => (l, { linkA with partner := partner 77 (if l < 4 then east else west), state := if l < 4 then .active else st }) }

/-- A list that has yet to take its GO, and one whose last three units are left. -/
def listGo (b : List Byte) : SendList := ⟨true, 0, false, false, 0, some b⟩
def listLast (b : List Byte) : SendList := ⟨true, 0, true, false, 297, some b⟩

/-- A train of two flits' payload of context 1: one that goes through, and one of its own list. -/
def egress0 (own : Bool) : EgTrain :=
  let h := toLE 1 1 ++ toLE 1 1 ++ zeros 62
  ⟨7, 0, 1, 2, none, !own, [h ++ [1, 2, 3, 4]], [], false, h, if own then some ⟨0, 3, true, 0xFFFF⟩ else none, none, none⟩
def withEgress (own : Bool) : Dev := portSet (ringDev false []) (portOfLink 0) { Port.reset with egress := [egress0 own] }

theorem witness_RingSending :
    (∀ st ∈ [0, 2], let d := oset (ringDev false []) 0x3000 5 st
      Sound d ∧ Ready d ∧ NoHarvest d ∧ ringLocked d = false ∧ og d 0x3000 5 = st) ∧
    (∀ e ∈ [(2, 0, LinkState.active), (0, 2, .active), (2, 0, .lock), (0, 0, .lock)], let d := forming e.1 e.2.1 e.2.2
      Sound d ∧ NoHarvest d ∧ og d 0x3000 5 = 1 ∧ portUp d (ringPort d 0) = true ∧ portUp d (ringPort d 1) = (e.2.2 == .active) ∧
        partnerOk d (ringPort d 0) ((og d 0x3000 3 + 1) % og d 0x3000 2) = (e.1 == 2) ∧
        partnerOk d (ringPort d 1) ((og d 0x3000 3 + og d 0x3000 2 - 1) % og d 0x3000 2) = (e.2.1 == 0)) ∧
    (∀ bound ∈ [false, true], ∀ e ∈ [(0xFFFF, 0), (3, 3), (3, 4)], let b := sendBytes e.1 e.2
      let s := withSend bound b (listGo b)
      Sound s.dev ∧ NoHarvest s.dev ∧ SendsNext s.dev 1 0 (parseSend b) ∧ (ctxOf s.dev 1).state = .running ∧ sendOf (ctxOf s.dev 1) 0 = listGo b ∧
        inFrames s.dev 1 ((parseSend b).src + unitBytes 1 0 * (parseSend b).first) (unitBytes 1 0 * (parseSend b).units) = true ∧
        ((parseSend b).kind, (parseSend b).fmt, (parseSend b).go, (parseSend b).goN) = (1, 0, e.1, e.2) ∧ tallyOf s.dev 3 = count0 3) ∧
    (∀ bound ∈ [false, true], let b := sendBytes 0xFFFF 0
      let e := parseSend b
      let s := stateOf { (withSend bound b (listLast b)).dev with links := [] }
      Sound s.dev ∧ NoHarvest s.dev ∧ SendsNext s.dev 1 0 e ∧ e.done = 0xFFFF ∧ sending s.dev 1 0 = false ∧ ringBound s.dev 1 = bound ∧
        ringUp s.dev = true ∧ portUp s.dev (ringPort s.dev 0) = false ∧ (portOf s.dev (ringPort s.dev 0)).egress = [] ∧ 297 < e.units ∧
        sendWaits s.dev 1 0 e = false ∧
        usable s.dev 1 (e.src + unitBytes e.kind e.fmt * (e.first + 297)) (unitBytes e.kind e.fmt * min e.per (e.units - 297)) false = true ∧
        look 0 (ctxOf s.dev 1).sent (2 * e.kind + 0) = 0) ∧
    ∀ own ∈ [false, true], let d := withEgress own
      Sound d ∧ NoHarvest d ∧ (portOf d (portOfLink 0)).egress = [egress0 own] ∧ competes d (portOfLink 0) (egress0 own) = true ∧
        portUp d (portOfLink 0) = true ∧ freeStream (portOf d (portOfLink 0)) ≠ none ∧
        (portLinks (portOfLink 0))[(portOf d (portOfLink 0)).dealt % (portLinks (portOfLink 0)).length]? = some 0 ∧ linkTakes d 0 = true ∧
        sending d 1 0 = own ∧ portOfLink (leadLink (ringPort d 0)) = ringPort d 0 := by
  have h1 : ∀ st ∈ [0, 2], let d := oset (ringDev false []) 0x3000 5 st
      soundB d = true ∧ readyB d = true ∧ ringLocked d = false ∧ og d 0x3000 5 = st := by decide +kernel
  have h2 : ∀ e ∈ [(2, 0, LinkState.active), (0, 2, .active), (2, 0, .lock), (0, 0, .lock)], let d := forming e.1 e.2.1 e.2.2
      soundB d = true ∧ og d 0x3000 5 = 1 ∧ portUp d (ringPort d 0) = true ∧ portUp d (ringPort d 1) = (e.2.2 == .active) ∧
        partnerOk d (ringPort d 0) ((og d 0x3000 3 + 1) % og d 0x3000 2) = (e.1 == 2) ∧
        partnerOk d (ringPort d 1) ((og d 0x3000 3 + og d 0x3000 2 - 1) % og d 0x3000 2) = (e.2.1 == 0) := by decide +kernel
  have h3 : ∀ bound ∈ [false, true], ∀ e ∈ [(0xFFFF, 0), (3, 3), (3, 4)], let b := sendBytes e.1 e.2
      let s := withSend bound b (listGo b)
      soundB s.dev = true ∧ (b.length = 32 ∧ entryOk s.dev 1 0 (parseSend b) = true ∧ (sendOf (ctxOf s.dev 1) 0).entry = 0 ∧
          (sendOf (ctxOf s.dev 1) 0).first = some b) ∧ (ctxOf s.dev 1).state = .running ∧ sendOf (ctxOf s.dev 1) 0 = listGo b ∧
        inFrames s.dev 1 ((parseSend b).src + unitBytes 1 0 * (parseSend b).first) (unitBytes 1 0 * (parseSend b).units) = true ∧
        ((parseSend b).kind, (parseSend b).fmt, (parseSend b).go, (parseSend b).goN) = (1, 0, e.1, e.2) ∧ tallyOf s.dev 3 = count0 3 := by
    decide +kernel
  have h4 : ∀ bound ∈ [false, true], let b := sendBytes 0xFFFF 0
      let e := parseSend b
      let s := stateOf { (withSend bound b (listLast b)).dev with links := [] }
      soundB s.dev = true ∧ (b.length = 32 ∧ entryOk s.dev 1 0 (parseSend b) = true ∧ (sendOf (ctxOf s.dev 1) 0).entry = 0 ∧
          (sendOf (ctxOf s.dev 1) 0).first = some b) ∧ e.done = 0xFFFF ∧ sending s.dev 1 0 = false ∧ ringBound s.dev 1 = bound ∧
        ringUp s.dev = true ∧ portUp s.dev (ringPort s.dev 0) = false ∧ (portOf s.dev (ringPort s.dev 0)).egress = [] ∧ 297 < e.units ∧
        sendWaits s.dev 1 0 e = false ∧
        usable s.dev 1 (e.src + unitBytes e.kind e.fmt * (e.first + 297)) (unitBytes e.kind e.fmt * min e.per (e.units - 297)) false = true ∧
        look 0 (ctxOf s.dev 1).sent (2 * e.kind + 0) = 0 := by decide +kernel
  have h5 : ∀ own ∈ [false, true], let d := withEgress own
      soundB d = true ∧ (portOf d (portOfLink 0)).egress = [egress0 own] ∧ competes d (portOfLink 0) (egress0 own) = true ∧
        portUp d (portOfLink 0) = true ∧ freeStream (portOf d (portOfLink 0)) ≠ none ∧
        (portLinks (portOfLink 0))[(portOf d (portOfLink 0)).dealt % (portLinks (portOfLink 0)).length]? = some 0 ∧ linkTakes d 0 = true ∧
        sending d 1 0 = own ∧ portOfLink (leadLink (ringPort d 0)) = ringPort d 0 := by decide +kernel
  have idle {d : Dev} (h : d.ctxs = (ringDev false []).ctxs) : NoHarvest d :=
    noHarvest1 (k := { Ctx.reset with state := .running, graph := some graph0 }) rfl h
  have listed {d : Dev} (l : SendList) (h : d.ctxs = [(0, { Ctx.reset with state := .idle }),
      (1, { Ctx.reset with state := .running, graph := some graph0, east := l })]) : NoHarvest d := noHarvest1 rfl h
  exact ⟨fun st hs => ⟨sound_of_soundB (h1 st hs).1, readyOf (h1 st hs).2.1, idle rfl, (h1 st hs).2.2⟩,
    fun e he => ⟨sound_of_soundB (h2 e he).1, idle rfl, (h2 e he).2⟩,
    fun n hn e he => ⟨sound_of_soundB (h3 n hn e he).1, listed _ rfl, sendsIf (h3 n hn e he).2.1, (h3 n hn e he).2.2⟩,
    fun n hn => ⟨sound_of_soundB (h4 n hn).1, listed _ rfl, sendsIf (h4 n hn).2.1, (h4 n hn).2.2⟩,
    fun o ho => ⟨sound_of_soundB (h5 o ho).1, idle rfl, (h5 o ho).2⟩⟩

/-! ### Flits -/

theorem crc32Bits_lt (n c : Nat) (h : c < 2 ^ 32) : crc32Bits n c < 2 ^ 32 := by
  induction n generalizing c with
  | zero => exact h
  | succ n ih =>
    have hs : c >>> 1 < 2 ^ 32 := by
      rw [Nat.shiftRight_eq_div_pow]
      omega
    rw [crc32Bits]
    split
    · exact ih _ (Nat.xor_lt_two_pow hs (by decide))
    · exact ih _ hs

theorem crc32_lt (bs : List Byte) : crc32 bs < 2 ^ 32 := by
  have h : ∀ (l : List Byte) (c : Nat), c < 2 ^ 32 → l.foldl (fun c b => crc32Bits 8 (c ^^^ b.toNat)) c < 2 ^ 32 := by
    intro l
    induction l with
    | nil => exact fun c hc => hc
    | cons b r ih => exact fun c hc => ih _ (crc32Bits_lt 8 _ (Nat.xor_lt_two_pow hc (Nat.lt_of_lt_of_le b.isLt (by decide))))
  exact Nat.xor_lt_two_pow (h bs _ (by decide)) (by decide)

/-- The parts of 252 bytes with a CRC field. -/
theorem crc_parts {b : List Byte} (hb : b.length = 252) (v : Nat) : (b ++ toLE 4 v).take 252 = b ∧ fld (b ++ toLE 4 v) 252 4 = v % 2 ^ 32 := by
  have h : (b ++ toLE 4 v).drop 252 = toLE 4 v := by rw [← hb, List.drop_left]
  refine ⟨by rw [← hb, List.take_left], ?_⟩
  rw [fld, h, List.take_of_length_le (by simp), leNat_toLE]
  norm_num

/-- The CRC field decides whether a flit is good, and an ident block. -/
theorem flitGood_of {b : List Byte} (hb : b.length = 252) (v : Nat) : flitGood (b ++ toLE 4 v) = decide (crc32 b = v % 2 ^ 32) := by
  simp [flitGood, crc_parts hb v, hb]
theorem identGood_of {b : List Byte} (hb : b.length = 252) (v : Nat) : identGood (b ++ toLE 4 v) = decide (crc32 b = v % 2 ^ 32) := by
  simp [identGood, crc_parts hb v, hb]

/-- The 252 bytes of a flit of VC 0 to 3 before its CRC. -/
def flitBody (lead : Nat) (payload : List Byte) : List Byte :=
  toLE 4 (lead + 2 ^ 24 * (payload.length - 1)) ++ payload ++ zeros (248 - payload.length)
def goodFlit (b : List Byte) : List Byte := b ++ toLE 4 (crc32 b)
def badFlit (b : List Byte) : List Byte := b ++ toLE 4 (crc32 b + 1)

theorem crc_field (b : List Byte) : crc32 b = crc32 b % 2 ^ 32 ∧ crc32 b ≠ (crc32 b + 1) % 2 ^ 32 := by
  have := crc32_lt b
  omega
theorem flitGood_good {b : List Byte} (hb : b.length = 252) : flitGood (goodFlit b) = true := by
  rw [goodFlit, flitGood_of hb, decide_eq_true (crc_field b).1]
theorem flitGood_bad {b : List Byte} (hb : b.length = 252) : flitGood (badFlit b) = false := by
  rw [badFlit, flitGood_of hb, decide_eq_false (crc_field b).2]

/-- The header of a train of two units from unit 6 that ends here. -/
def unitHeader (kind : Nat) : List Byte :=
  toLE 1 kind ++ toLE 1 1 ++ toLE 1 0 ++ toLE 1 (if kind = 2 then 2 else 0) ++ toLE 4 9 ++ toLE 2 3 ++ toLE 2 2 ++ toLE 2 2 ++ toLE 2 4 ++ toLE 4 6 ++
    toLE 2 2 ++ toLE 2 0 ++ toLE 4 5 ++ toLE 4 77 ++ zeros 32
/-- The first flit of such a train, of VC 0, STREAM 4 and LSEQ 0; and one that is out of order. -/
def body0 : List Byte := flitBody (4 + 16 * 4) (unitHeader 1 ++ [1, 2, 3])
def body1 : List Byte := flitBody (4 + 2 ^ 12) [1]

/-- A landing entry for layer 9 in region 1 of core 1, or for gradients in HBM. -/
def landBytes (kind : Nat) : List Byte :=
  toLE 4 9 ++ toLE 4 0xFFFFFFFF ++ toLE 1 kind ++ toLE 1 1 ++ toLE 2 0xFFFF ++ toLE 4 1 ++ toLE 2 1 ++ toLE 2 4 ++ toLE 4 0 ++ toLE 4 100 ++ zeros 4 ++
    toLE 8 0x200000 ++ toLE 8 0x400 ++ toLE 8 0x280000 ++ zeros 8
def train0 (kind size : Nat) : RxTrain := ⟨unitHeader kind, List.replicate (size + 10) 0xA5, 1, false, false, 0, none, []⟩
def withTrain (kind size : Nat) (land : List Byte) : Dev :=
  rxSet (ctxUpd (ringDev true []) 1 fun k => { k with landing := land }) (ringPort (ringDev true []) 0) 3 (some (train0 kind size))

def withFlit : Dev := ctxUpd (ringDev true []) 1 fun k => { k with expected := [(seqKey (unitHeader 1) 4, 5)] }

theorem witness_RingReceiving :
    (let d := withFlit
     let h := (flitPayload (goodFlit body0)).take 64
     Sound d ∧ d.upset = [] ∧ d.poison = [] ∧ sleep d = 0 ∧ (∀ y, harvestDue d y = false) ∧ linkAlive d 18 = true ∧ flitGood (badFlit body0) = false ∧
       flitGood (goodFlit body0) = true ∧ flitGood (goodFlit body1) = true ∧ linkActive d 0 = true ∧ flitSeq (goodFlit body0) = (if (linkOf d 0).rxAny then ((linkOf d 0).rx + 1).toNat else 0) ∧
       flitSeq (goodFlit body1) ≠ 0 ∧ flitVc (goodFlit body0) < 2 ∧ flitFirst (goodFlit body0) = true ∧
       flitLast (goodFlit body0) = false ∧ ringUp d = true ∧ portOfLink 0 = ringPort d 0 ∧ portUp d (portOfLink 0) = true ∧
       rxsAt d (portOfLink 0) (flitStream (goodFlit body0)) = [] ∧ (portOf d (portOfLink 0)).early = [] ∧
       (portOf d (portOfLink 0)).merged = (portLinks (portOfLink 0)).idxOf 0 ∧ 64 ≤ (flitPayload (goodFlit body0)).length ∧ headerCheck d h = 0 ∧
       hopsOf h = og d 0x3000 2 - 1 ∧ fld h 24 4 + 1 < 2 ^ 32) ∧
    (let r := train0 1 320
     let g := { reg0 with base := 0x1000, item := 320, count := 3, tail := 3 }
     let d := { withTrain 1 320 (landBytes 1) with clusters := [(0, { Cluster.reset with regions := [(65, g)] })] }
     Sound d ∧ (∀ y, harvestDue d y = false) ∧ Receives d 0 3 r ∧ (ctxOf d r.ctx).state = .running ∧ r.units < fld r.header 20 2 ∧
       fld r.header 0 1 = 1 ∧ unitBytes 1 (fld r.header 2 1) ≤ r.payload.length ∧
       ((landEntries (ctxOf d r.ctx)).filter fun e => landMatch e r.header (fld r.header 16 4 + r.units)) = [landBytes 1] ∧
       landingOf d r.ctx (landBytes 1) (fld r.header 16 4 + r.units) (unitBytes 1 (fld r.header 2 1)) = .ready 0 65 ∧
       hubFlagged d 4 = false ∧ fabricFlagged d 0 4 = false ∧ fld (landBytes 1) 10 2 = 0xFFFF ∧ r.landed = []) ∧
    (let r := train0 1 320
     let d := withTrain 1 320 []
     Sound d ∧ Receives d 0 3 r ∧ ((landEntries (ctxOf d r.ctx)).filter fun e => landMatch e r.header (fld r.header 16 4 + r.units)) = []) ∧
    let r := train0 2 1024
    let d := withTrain 2 1024 (landBytes 2)
    let u := fld r.header 16 4 + r.units
    let cva := fld (landBytes 2) 32 8 + fld r.header 10 2 * fld (landBytes 2) 40 8 + 1024 * u
    let rva := fld (landBytes 2) 48 8 + 1024 * u
    Sound d ∧ Receives d 0 3 r ∧ fld r.header 0 1 = 2 ∧ 1024 ≤ r.payload.length ∧ r.goesOn = none ∧
      ((landEntries (ctxOf d r.ctx)).filter fun e => landMatch e r.header u).head? = some (landBytes 2) ∧
      fld (landBytes 2) 10 2 = 0xFFFF ∧ UnitReads d r.ctx cva (zeros 1024) ∧ inHbm d r.ctx cva 1024 false = true ∧
      inHbm d r.ctx rva 1024 true = true ∧ PageByte d r.ctx rva (frameKey 0 256 + rva % 2097152) (page 0 (some 256) 0) ∧
      rva % 65536 ≤ 64512 ∧ rva + 1024 ≤ 2 ^ 52 ∧ hbmWaits d r.ctx 2 cva 1024 = false ∧ hbmWaits d r.ctx 2 rva 1024 = false := by
  refine ⟨⟨sound_of_soundB (by decide +kernel), rfl, rfl, by decide +kernel, noHarvest_due (noHarvest1 (k := { Ctx.reset with
      state := .running, graph := some graph0, expected := [(seqKey (unitHeader 1) 4, 5)] }) rfl rfl), by decide +kernel,
      flitGood_bad (by decide +kernel), flitGood_good (by decide +kernel), flitGood_good (by decide +kernel), by decide +kernel⟩,
    ⟨sound_of_soundB (by decide +kernel), ?_, ⟨by decide +kernel, rfl⟩, by decide +kernel⟩,
    ⟨sound_of_soundB (by decide +kernel), ⟨by decide +kernel, rfl⟩, by decide +kernel⟩,
    sound_of_soundB (by decide +kernel), ⟨by decide +kernel, rfl⟩, by decide +kernel, by decide +kernel, rfl, by decide +kernel, by decide +kernel,
    readsIf (by decide +kernel), by decide +kernel, by decide +kernel, ⟨by decide +kernel, .inr ⟨by decide, 256, by decide +kernel⟩⟩,
    by decide +kernel⟩
  exact fun y => noHarvest_due (noHarvest1 (k := { Ctx.reset with state := .running, graph := some graph0, landing := landBytes 1 }) rfl rfl) y

/-! ### Links -/

/-- Link `l` as given, the others active. -/
def withLink (l : Nat) (k : Link) : Dev := linkSet (ringDev false []) l k
def linkAt (st : LinkState) (retries spent : Nat) : Link := { linkA with state := st, retries := retries, spent := spent, fails := 2 }

/-- The first 252 bytes of an ident block with this echo of a serial number. -/
def identBody (n : Nat) : List Byte := toLE 8 5 ++ (toLE 8 n ++ zeros 236)

/-- Blocks with a good CRC, the echo `n`; and one with a bad one. -/
theorem ident_good (n : Nat) : identGood (goodFlit (identBody n)) = true ∧ fld (goodFlit (identBody n)) 8 8 = n % 2 ^ 64 ∧
    identGood (badFlit (identBody n)) = false := by
  have hz : (zeros 236).length = 236 := by decide +kernel
  have hb : (identBody n).length = 252 := by simp [identBody, hz]
  have h : (goodFlit (identBody n)).drop 8 = toLE 8 n ++ (zeros 236 ++ toLE 4 (crc32 (identBody n))) := by
    rw [goodFlit, identBody, List.append_assoc, List.append_assoc, List.drop_left' (by simp)]
  refine ⟨by rw [goodFlit, identGood_of hb, decide_eq_true (crc_field _).1], ?_,
    by rw [badFlit, identGood_of hb, decide_eq_false (crc_field _).2]⟩
  rw [fld, h, List.take_left' (by simp), leNat_toLE]
  norm_num

/-- A link in each state, with its retries, its timeouts and its time at their limits, below them and above them. -/
def training : List Link :=
  [linkAt .detect 0 0, linkAt .detect 14 14, linkAt .detect 15 0, linkAt .lock 1 10, linkAt .lock 0 11, linkAt .align 1 13, linkAt .align 2 0,
    linkAt .fecUp 1 14, linkAt .fecUp 0 15, linkAt .ident 0 0, linkAt .ident 2 15, { linkAt .ident 0 0 with began := 0 - 12800000 },
    linkAt .quiet 0 0, linkAt .absent 0 0, linkAt .off 0 0]

theorem witness_LinkTraining :
    (∀ l ∈ [0, 18], ∀ k ∈ training, Sound (withLink l k) ∧ Ready (withLink l k) ∧ linkOf (withLink l k) l = k ∧ (withLink l k).otime.count = 0) ∧
    (enoughLight 0 0x3FFFF = true ∧ enoughLight 18 0x3FFFF = true) ∧ 16 ≤ lanesLit 0 linkA.now ∧ lanesLit 18 linkA.now = 4 ∧
      linkA.skipWorn = false ∧ (∃ b, identGood b = false) ∧ (∃ b, identGood b = true ∧ fld b 8 8 = Config.serial.toNat) ∧
      (∃ b, identGood b = true ∧ fld b 8 8 ≠ Config.serial.toNat) ∧ 0 ∈ linksAt (ringDev false []) 0 ∧ 18 ∈ linksAt (ringDev false []) 18 := by
  have h : ∀ l ∈ [0, 18], ∀ k ∈ training, soundB (withLink l k) = true ∧ readyB (withLink l k) = true ∧ linkOf (withLink l k) l = k ∧
      (withLink l k).otime.count = 0 := by decide +kernel
  have hs := Config.serial.isLt
  refine ⟨fun l hl k hk => ⟨sound_of_soundB (h l hl k hk).1, readyOf (h l hl k hk).2.1, (h l hl k hk).2.2⟩, by decide +kernel, by decide +kernel,
    by decide +kernel, rfl, ⟨_, (ident_good 0).2.2⟩, ⟨_, (ident_good Config.serial.toNat).1, ?_⟩, ⟨_, (ident_good (Config.serial.toNat + 1)).1, ?_⟩,
    by decide +kernel, by decide +kernel⟩
  · rw [(ident_good _).2.1]; omega
  · rw [(ident_good _).2.1]; omega

/-- A flit of VC 3 with these words of ACK and credits, on a link that holds three flits for replay. -/
def ctlBody (w : Nat) : List Byte := flitBody 3 (toLE 4 w ++ toLE 4 7 ++ zeros 240)
def lossDev (nak : Option Nat) : Dev :=
  let k := { linkA with replay := [1, 2, 3].map fun n => ⟨goodFlit (flitBody (2 + 2 ^ 12 * n) [0x11]), n, []⟩, nakFor := nak, nakCount := 3 }
  let d := withLink 0 k
  { d with graft := { d.graft with fibres := 0xFFF } }

theorem witness_LinkLosses :
    (∀ nak ∈ [none, some (4096 + 2)], Sound (lossDev nak)) ∧ linkAlive (lossDev none) 0 = true ∧ tooDark (linkOf (lossDev none) 0) 0 0 = true ∧
      tooDark (linkOf (lossDev none) 0) 0 0x3FFFF = false ∧ (∀ w ∈ [4096 + 2, 8192 + 4096 + 2], flitGood (goodFlit (ctlBody w)) = true ∧
        flitVc (goodFlit (ctlBody w)) = 3 ∧ fld ((goodFlit (ctlBody w)).drop 4) 0 4 = w) ∧ (4096 + 2).testBit 13 = false ∧
      (8192 + 4096 + 2).testBit 13 = true ∧ (linkOf (lossDev (some (4096 + 2))) 0).nakFor = some ((8192 + 4096 + 2) % 8192) ∧
      (∀ st ∈ [LinkState.lock, .align, .fecUp, .ident], Sound (withLink 0 (linkAt st 0 0)) ∧ tooDark (linkAt st 0 0) 0 0 = true) ∧
      Sound (withLink 0 (linkAt .off 0 0)) ∧ linkAlive (withLink 0 (linkAt .off 0 0)) 0 = false ∧
      laneLink (lossDev none) 0 15 = some 0 ∧ (linkOf (lossDev none) 0).used.getLsbD 15 = true ∧ og (lossDev none) 0x3010 2 < 1000001 ∧
      (og (lossDev none) (0x3100 + 0) 8).testBit 15 = false ∧ og (lossDev none) 0x3010 2 = 1000000 ∧
      (∃ fibre, fibre < 12 ∧ (lossDev none).graft.fibres.getLsbD fibre = true ∧ 0 ∈ fedBy (lossDev none) fibre) ∧ 0 ∈ linksAt (lossDev none) 0 ∧
      (withLink 0 linkA).graft.fibres.getLsbD 11 = false := by
  have h : ∀ nak ∈ [none, some (4096 + 2)], soundB (lossDev nak) = true := by decide +kernel
  have hd : ∀ st ∈ [LinkState.lock, .align, .fecUp, .ident], soundB (withLink 0 (linkAt st 0 0)) = true ∧ tooDark (linkAt st 0 0) 0 0 = true := by
    decide +kernel
  have hw : ∀ w ∈ [4096 + 2, 8192 + 4096 + 2], (ctlBody w).length = 252 ∧ flitVc (goodFlit (ctlBody w)) = 3 ∧
      fld ((goodFlit (ctlBody w)).drop 4) 0 4 = w := by decide +kernel
  exact ⟨fun nak hn => sound_of_soundB (h nak hn), by decide +kernel, by decide +kernel, by decide +kernel,
    fun w hm => ⟨flitGood_good (hw w hm).1, (hw w hm).2⟩, by decide +kernel, by decide +kernel, by decide +kernel,
    fun st hs => ⟨sound_of_soundB (hd st hs).1, (hd st hs).2⟩, sound_of_soundB (by decide +kernel), by decide +kernel⟩

/-- A routed train of this KIND to DEST, and a freeze message for context `x`. -/
def routedBytes (kind dest hops : Nat) : List Byte := toLE 1 kind ++ toLE 1 1 ++ zeros 2 ++ toLE 2 dest ++ zeros 2 ++ toLE 1 hops ++ zeros 55
def freezeBytes (x : Nat) : List Byte := [0x12, 0, 0, 0] ++ toLE 2 7 ++ toLE 2 9 ++ toLE 1 1 ++ toLE 1 x ++ zeros 6 ++ toLE 16 (4 + 2 ^ 16) ++ zeros 32
def routes0 : Dev := { ringDev false [] with routes := [(5, 0x21), (7, 0)] }

theorem witness_RoutingAndFreezing :
    Sound routes0 ∧ Ready routes0 ∧ routeCheck (toLE 2 6 ++ toLE 2 2 ++ zeros 4 ++ toLE 2 0xFF ++ toLE 2 0x21) = 0 ∧ linkActive routes0 18 = true ∧
      isRouted (routedBytes 0x11 5 0) = true ∧ routeOf routes0 (fld (routedBytes 0x11 5 0) 4 2) % 16 ≠ 0 ∧
      routePort routes0 (routedBytes 0x11 5 0) ≠ none ∧ fld (routedBytes 0x11 5 0) 0 1 ≠ 0x12 ∧
      isRouted (routedBytes 0x11 5 15) = true ∧ routeOf routes0 (fld (routedBytes 0x11 5 15) 4 2) % 16 ≠ 0 ∧
      15 ≤ fld (routedBytes 0x11 5 15) 8 1 ∧ fld (freezeBytes 1) 0 1 = 0x12 ∧ routeOf routes0 (fld (freezeBytes 1) 4 2) % 16 = 0 ∧
      fld (freezeBytes 1) 9 1 = 1 ∧ canFreeze routes0 1 = true ∧
      let d := ctxUpd routes0 1 fun k => { k with state := .frozen, freezing := true }
      Sound d ∧ Ready d ∧ (ctxOf d 1).state = .frozen ∧ ringTrains d 1 = 0 :=
  ⟨sound_of_soundB (by decide +kernel), readyOf (by decide +kernel), by decide +kernel, by decide +kernel, by decide +kernel, by decide +kernel,
    by decide +kernel, by decide +kernel, by decide +kernel, by decide +kernel, by decide +kernel, by decide +kernel, by decide +kernel,
    by decide +kernel, by decide +kernel, sound_of_soundB (by decide +kernel), readyOf (by decide +kernel), by decide +kernel⟩

/-- A time train of a partner that is CONVERGED, and a follower that acquires from link 18 alone; offset 64. -/
def timeBytes : List Byte := toLE 1 0x10 ++ zeros 3 ++ toLE 2 6 ++ toLE 1 2 ++ zeros 1 ++ toLE 8 77 ++ toLE 8 20500 ++ toLE 8 10000 ++ toLE 8 20000 ++ zeros 24
def follower : Dev := { ringDev false [] with links := [(18, linkA)], otime := { OTime.reset with state := 1, upstream := some 18, count := 100000 } }

theorem witness_OrchardTime :
    (Sound (ringDev false []) ∧ linkTakes (ringDev false []) 18 = true ∧ 0 < (linkOf (ringDev false []) (leadLink (portOfLink 18))).credit2 ∧
      (portOf (ringDev false []) (portOfLink 18)).egress = [] ∧ ∀ dir, flagged (ringDev false []) 3 4 dir 1 = false) ∧
    (Sound follower ∧ linkActive follower 18 = true ∧ (∀ m, m ≠ 18 → linkActive follower m = false) ∧ follower.otime.state = 1 ∧
      follower.otime.upstream = some 18 ∧ fld timeBytes 0 1 = 0x10 ∧ fld timeBytes 6 1 = 2 ∧ 30372 ≤ follower.otime.count ∧ fld timeBytes 24 8 ≠ 0 ∧
      2 * (64 : Int) = ((fld timeBytes 32 8 : Int) - fld timeBytes 24 8) - (((30372 : Word).toNat : Int) - fld timeBytes 16 8)) ∧
    let d := { oset (ringDev false []) 0x3050 1 1 with links := [], otime := { OTime.reset with state := 4 } }
    Sound d ∧ Ready d ∧ (toLE 8 5).length = 8 ∧ og d 0x3050 1 = 1 ∧ d.otime.state = 4 ∧ ∀ m, m < 19 → linkActive d m = false := by
  have unflagged : ∀ i, i < 32 → bit (og (ringDev false []) 0x7021 (i + 1)) 31 = false := by decide +kernel
  refine ⟨⟨sound_of_soundB (by decide +kernel), by decide +kernel, by decide +kernel, rfl, fun dir => ?_⟩,
    ⟨sound_of_soundB (by decide +kernel), by decide +kernel, ?_, by decide +kernel⟩,
    sound_of_soundB (by decide +kernel), readyOf (by decide +kernel), by decide +kernel⟩
  · unfold flagged
    rw [Bool.or_eq_false_iff, List.any_eq_false]
    exact ⟨fun i hi => by simp [unflagged i (List.mem_range.1 hi)], rfl⟩
  intro m hm
  have : linkOf follower m = Link.reset := by
    show look Link.reset [(18, linkA)] m = Link.reset
    rw [look_cons, if_neg (Ne.symm hm)]
    simp [look]
  simp only [linkActive, this]
  decide

/-! ### Spares, temperatures, power -/

def env0 : StartEnv := ⟨true, true, true, true, 5, [], [], [], [], List.replicate 12 220, 10, 77⟩
/-- A package in a recovery window, with every spare, and only ctx 0. -/
def spares : Dev :=
  oset { dev0 with graft := inventory env0, ctxs := [(0, { Ctx.reset with state := .idle })], obj := [(okey 0x1000 7, 1), (okey 0x603F 1, 0x18)] } 0x2010 1 1

/-- One request of each KIND: column, core, cluster, engine, fibre. -/
def graftReqs : List (List Byte) :=
  [[1, 3, 7, 7, 2, 65, 0, 0], [2, 3, 7, 7, 2, 65, 0, 0], [3, 3, 7, 7, 2, 65, 0, 0], [4, 3, 7, 7, 2, 65, 0, 0], [5, 3, 7, 7, 2, 65, 0, 0]]

theorem witness_SpareGrafts :
    Sound spares ∧ Ready spares ∧
      (∀ data ∈ graftReqs, data.length = 8 ∧ graftCheck spares data = 0) ∧ graftReqs.map (fun b => (parseGraft b).kind) = [1, 2, 3, 4, 5] ∧
      (∀ b ∈ graftReqs.take 1, (failedColumns spares.graft (physEngineNo spares (4 * (parseGraft b).core + (parseGraft b).e))).length < 2) ∧
      (∀ e ∈ spares.ctxs, e.1 ≠ 0 → e.2.state ≠ .running ∧ e.2.state ≠ .preempting) :=
  ⟨sound_of_soundB (by decide +kernel), readyOf (by decide +kernel), by decide +kernel⟩

/-- Die 0 is throttled, too hot and changing; die 1 is none of these; monitor 5 was at its limit at the last sample. -/
def hot : Dev :=
  { dev0 with power := { dev0.power with throttle := [(0, 1)], holding := [(0, true)], hotOnce := [(0, true)], tripRun := [(5, 1)], changing := [(0, true)] } }

theorem witness_Throttling :
    Sound hot ∧ Ready hot ∧ (∀ m : Nat, -2147483648 ≤ (List.replicate 13 2000).getD m (0 : Int) ∧ (List.replicate 13 2000).getD m (0 : Int) < 2147483648) ∧
      tripLimit hot 5 ≤ 2000 ∧ look 0 hot.power.tripRun 5 = 1 ∧ (∀ m, m < 13 → (500 : Int) < tripLimit hot m) ∧
      (∃ t, exec (.monitorSample (List.replicate 13 2000) []) (stateOf hot) = .next t ∧ hotBy t.dev 0 0 = true) ∧
      look false hot.power.hotOnce (2 * 0) = true ∧ look false hot.power.holding 0 = true ∧ throttleOf hot 0 < 2 ∧
      look false hot.power.holding 1 = false ∧ look false hot.power.changing 0 = true ∧ look false hot.power.changing 1 = false ∧
      mayRecover hot 1 = false ∧
      (let d := { dev0 with power := { dev0.power with throttle := [(3, 2)] } }
       Sound d ∧ mayRecover d 3 = true ∧ 2 ≤ throttleOf d 3) ∧ canFreeze hot 1 = true ∧ holdsAny hot 1 = true := by
  refine ⟨sound_of_soundB (by decide +kernel), readyOf (by decide +kernel), ?_, by decide +kernel, by decide +kernel, by decide +kernel,
    ⟨_, rfl, by decide +kernel⟩, by decide +kernel, by decide +kernel, by decide +kernel, by decide +kernel, by decide +kernel, by decide +kernel,
    by decide +kernel, ⟨sound_of_soundB (by decide +kernel), by decide +kernel⟩, by decide +kernel⟩
  intro m
  by_cases hm : m < 13
  · have : ∀ m, m < 13 → (List.replicate 13 2000).getD m (0 : Int) = 2000 := by decide
    rw [this m hm]; decide
  · rw [List.getD_eq_default _ _ (by simpa using hm)]; decide

/-- A package that may sleep; one that enters a level; and one that wakes from one. -/
def asleep (level : Nat) : Dev :=
  { spares with obj := [(okey 0x1000 7, 1), (okey 0x6000 2, level), (okey 0x6010 0, 2000000), (okey 0x6011 1, level), (okey 0x603F 1, 0x18)] }

theorem witness_PowerStates :
    (∀ level ∈ [1, 2, 3, 4], let d := asleep level
      Sound d ∧ sleep d < level ∧ d.power.waking = false ∧ og d 0x1000 7 = 1 ∧ isIdle d = true ∧ stateEntry d level = true ∧
        stateAllowed d level = true) ∧
    isIdle dev0 = false ∧
    (∀ level ∈ [1, 2, 3, 4], let d := { dev0 with power := { dev0.power with entering := some level } }
      Sound d ∧ d.power.waking = false) ∧
    ∀ level ∈ [1, 2, 3, 4], let d := { dev0 with power := { dev0.power with waking := true, state := level } }
      Sound d ∧ d.host.held = [] ∧ UnitsGood env0 := by
  have h1 : ∀ level ∈ [1, 2, 3, 4], let d := asleep level
      soundB d = true ∧ sleep d < level ∧ d.power.waking = false ∧ og d 0x1000 7 = 1 ∧ isIdle d = true ∧ stateEntry d level = true ∧
        stateAllowed d level = true := by decide +kernel
  have h2 : ∀ level ∈ [1, 2, 3, 4], soundB { dev0 with power := { dev0.power with entering := some level } } = true ∧
      soundB { dev0 with power := { dev0.power with waking := true, state := level } } = true := by decide +kernel
  exact ⟨fun l hl => ⟨sound_of_soundB (h1 l hl).1, (h1 l hl).2⟩, by decide +kernel, fun l hl => ⟨sound_of_soundB (h2 l hl).1, rfl⟩,
    fun l hl => ⟨sound_of_soundB (h2 l hl).2, rfl, rfl, rfl, rfl, rfl, rfl, rfl, by decide⟩⟩

theorem witness_StartUp :
    UnitsGood env0 ∧ FirmwareGood State.reset.dev env0 ∧
      (∀ vin ∈ [true, false], ∀ vaux ∈ [true, false], Sound { dev0 with power := { dev0.power with vin := vin, vaux := vaux } }) ∧
      dev0.mgmt.slot0 = true ∧ og dev0 0x1000 7 = 1 ∧ canFreeze dev0 1 = true ∧ holdsAny dev0 1 = true ∧ dev0.power.vin = true ∧
      dev0.power.vaux = true ∧ romOnly dev0 = false ∧ FirmwareGood dev0 env0 ∧ { env0 with pll := false }.fw0 = true ∧
      { env0 with fw0 := false, fw1 := false }.fw1 = false := by
  have h : ∀ vin ∈ [true, false], ∀ vaux ∈ [true, false], soundB { dev0 with power := { dev0.power with vin := vin, vaux := vaux } } = true := by
    decide +kernel
  exact ⟨⟨rfl, rfl, rfl, rfl, rfl, rfl, by decide⟩, .inl ⟨rfl, rfl⟩, fun a ha b hb => sound_of_soundB (h a ha b hb), rfl, by decide +kernel,
    by decide +kernel, by decide +kernel, rfl, rfl, by decide +kernel, .inl ⟨rfl, rfl⟩, rfl, rfl⟩

/-! ### The host and the management controller -/

/-- A submission queue of context 1. -/
def withSq (q : Sq) (irq : W32) (isOpen : Bool) : Dev :=
  let h := { dev0.host with sqs := [(1, { q with irq := irq })], msixOpen := if isOpen then [(2, true)] else [] }
  { dev0 with host := { h with msixAddr := [(2, 0x99)], msixData := [(2, 5)] } }

/-- A WRITE item in the slots from `h` on: `n` bytes to `va`. -/
def writeItem (h va n : Nat) : Sq :=
  { Sq.reset with head := BitVec.ofNat 8 h, tail := BitVec.ofNat 8 (h + 1), slots := writeMem [] (64 * h) ([2, 1, 0, 0] ++ zeros 4 ++
    toLE 8 va ++ toLE 4 n ++ (List.range 44).map fun i => BitVec.ofNat 8 (i + 1)) }
def record0 : List Byte := (List.range 64).map fun i => BitVec.ofNat 8 (i + 1)
def ring0 (tail : W32) : Sq := { Sq.reset with cqBase := 0x5000, cqSize := 6, cqHead := 1, cqTail := tail, cqWait := [record0] }

theorem witness_HostQueues :
    (Sound dev0 ∧ hostUp dev0 = true ∧ Memory.wf (sqOf dev0 1).slots = true ∧ (sqOf dev0 1).head = (sqOf dev0 1).tail ∧
      0x3FFF + ([7] : List Byte).length ≤ 0x4000) ∧
    (∀ e ∈ [(0, 0x10000, 1, hostKey 0x100000, page 2 none 0x100000), (255, 0x1FFF8, 8, hostKey 0x10FFF8, page 2 none 0x100000),
        (3, 0x200000, 44, frameKey 0 256, page 0 (some 256) 0)],
      let d := withSq (writeItem e.1 e.2.1 e.2.2.1) 0 false
      let q := sqOf d 1
      let b (off m : Nat) : Nat := leNat ((List.range m).map fun j => readByte q.slots (64 * q.head.toNat + off + j))
      Sound d ∧ (ctxOf d 1).state = .running ∧ sleep d = 0 ∧ q.error = false ∧ q.head ≠ q.tail ∧ b 0 3 = 0x000102 ∧ b 8 8 = e.2.1 ∧
        b 16 4 = e.2.2.1 ∧ usable d 1 e.2.1 e.2.2.1 true = true ∧ e.2.2.1 ≤ 65536 - e.2.1 % 65536 ∧ pageAt d 1 e.2.1 = some e.2.2.2.2 ∧
        e.2.2.2.1 = (if e.2.2.2.2.kind = 2 then hostKey (e.2.2.2.2.addr + e.2.1 % 65536) else frameKey 0 256 + e.2.1 % 2097152) ∧
        d.upset = [] ∧ d.poison = []) ∧
    ∀ e ∈ [(63, true), (62, false)], let d := withSq (ring0 (BitVec.ofNat 32 e.1)) 3 e.2
      Sound d ∧ d.host.busMaster = true ∧ (sqOf d 1).cqWait = [record0] ∧ ringEntries (sqOf d 1).cqBase (sqOf d 1).cqSize = some 64 ∧
        ringRoom 64 (sqOf d 1).cqHead (sqOf d 1).cqTail = true ∧ (sqOf d 1).irq.toNat.testBit 0 = true ∧ msixCan d 2 = e.2 := by
  have h1 : ∀ e ∈ [(0, 0x10000, 1, hostKey 0x100000, page 2 none 0x100000), (255, 0x1FFF8, 8, hostKey 0x10FFF8, page 2 none 0x100000),
        (3, 0x200000, 44, frameKey 0 256, page 0 (some 256) 0)],
      let d := withSq (writeItem e.1 e.2.1 e.2.2.1) 0 false
      let q := sqOf d 1
      let b (off m : Nat) : Nat := leNat ((List.range m).map fun j => readByte q.slots (64 * q.head.toNat + off + j))
      soundB d = true ∧ (ctxOf d 1).state = .running ∧ sleep d = 0 ∧ q.error = false ∧ q.head ≠ q.tail ∧ b 0 3 = 0x000102 ∧ b 8 8 = e.2.1 ∧
        b 16 4 = e.2.2.1 ∧ usable d 1 e.2.1 e.2.2.1 true = true ∧ e.2.2.1 ≤ 65536 - e.2.1 % 65536 ∧ pageAt d 1 e.2.1 = some e.2.2.2.2 ∧
        e.2.2.2.1 = (if e.2.2.2.2.kind = 2 then hostKey (e.2.2.2.2.addr + e.2.1 % 65536) else frameKey 0 256 + e.2.1 % 2097152) ∧
        d.upset = [] ∧ d.poison = [] := by decide +kernel
  have h2 : ∀ e ∈ [(63, true), (62, false)], let d := withSq (ring0 (BitVec.ofNat 32 e.1)) 3 e.2
      soundB d = true ∧ d.host.busMaster = true ∧ (sqOf d 1).cqWait = [record0] ∧
        ringEntries (sqOf d 1).cqBase (sqOf d 1).cqSize = some 64 ∧
        ringRoom 64 (sqOf d 1).cqHead (sqOf d 1).cqTail = true ∧ (sqOf d 1).irq.toNat.testBit 0 = true ∧ msixCan d 2 = e.2 := by decide +kernel
  exact ⟨⟨sound_of_soundB (by decide +kernel), by decide +kernel⟩, fun e he => ⟨sound_of_soundB (h1 e he).1, (h1 e he).2⟩,
    fun e he => ⟨sound_of_soundB (h2 e he).1, (h2 e he).2⟩⟩

/-- Windows 0 and 1 of context 1: a part of its virtual memory, and the on-chip memory of cluster 0. -/
def windows (level : Nat) : Dev :=
  { dev0 with host := { dev0.host with winCtrl := [(0, 0x101), (1, 0x103)], winBase := [(0, 0x10000)] }, power := { dev0.power with state := level } }
/-- A held message of vector `v`. -/
def heldMsix (v : Nat) (isOpen busMaster : Bool) : Dev :=
  { dev0 with host := { dev0.host with msixPend := [(v, true)], msixOpen := if isOpen then [(v, true)] else [], busMaster := busMaster } }

theorem witness_HostEndpoint :
    (Sound (windows 0) ∧ hostUp (windows 0) = true ∧ sleep (windows 0) = 0 ∧ (windows 0).upset = [] ∧ (windows 0).poison = [] ∧
      (∃ k, winPlace (windows 0) (2 ^ 33 + 0x100) 4 false = some (.onChip k 1)) ∧
      (∃ k, winPlace (windows 0) (2 ^ 33 + 2 ^ 25 + 8) 4 true = some (.onChip k 1)) ∧
      (∀ acc ∈ [WinAccess.read (2 ^ 33 + 0x100) 4, .write (2 ^ 33 + 2 ^ 25 + 8) [1, 2, 3, 4]], winWaits (windows 0) acc = false) ∧
      winPlace (windows 0) (2 ^ 33 + 2 ^ 28) 4 false = none ∧ winPlace (windows 0) (2 ^ 33 + 2 ^ 28) 4 true = none) ∧
    (let d := { windows 0 with poison := [(32, true)] }
     Sound d ∧ winPlace d (2 ^ 33 + 0x100) 4 false = some (.onChip (8 * 32) 1) ∧ look false d.poison ((8 * 32 + 0) / 8) = true) ∧
    (let d := { windows 0 with arb := ⟨[2 ^ 31 + flagKey 1 4 0 5]⟩ }
     Sound d ∧ winWaits d (.read (2 ^ 33 + 0x100) 4) = true) ∧
    (∀ level ∈ [3, 4], Sound (windows level) ∧ hostUp (windows level) = true ∧ 3 ≤ sleep (windows level)) ∧
    ∀ v ∈ [0, 129], (Sound (heldMsix v true false) ∧ hostUp (heldMsix v true false) = true ∧
        look false (heldMsix v true false).host.msixPend v = true ∧ look false (heldMsix v true false).host.msixOpen v = true ∧
        (heldMsix v true false).host.funcMask = false) ∧
      (Sound (heldMsix v false true) ∧ hostUp (heldMsix v false true) = true ∧ look false (heldMsix v false true).host.msixPend v = true ∧
        (heldMsix v false true).host.funcMask = false ∧ (heldMsix v false true).host.busMaster = true) := by
  have h1 : ∀ level ∈ [3, 4], soundB (windows level) = true ∧ hostUp (windows level) = true ∧ 3 ≤ sleep (windows level) := by decide +kernel
  have h2 : ∀ v ∈ [0, 129], soundB (heldMsix v true false) = true ∧ soundB (heldMsix v false true) = true ∧
      hostUp (heldMsix v true false) = true ∧ look false (heldMsix v true false).host.msixPend v = true ∧
      look false (heldMsix v true false).host.msixOpen v = true ∧ (heldMsix v true false).host.funcMask = false ∧
      hostUp (heldMsix v false true) = true ∧ look false (heldMsix v false true).host.msixPend v = true ∧
        (heldMsix v false true).host.funcMask = false ∧ (heldMsix v false true).host.busMaster = true := by decide +kernel
  refine ⟨⟨sound_of_soundB (by decide +kernel), by decide +kernel, by decide +kernel, rfl, rfl, ⟨spKey 0 0x100, by decide +kernel⟩,
      ⟨spKey 1 8, by decide +kernel⟩, by decide +kernel⟩,
    ⟨sound_of_soundB (by decide +kernel), by decide +kernel⟩, ⟨sound_of_soundB (by decide +kernel), by decide +kernel⟩, fun l hl => ⟨sound_of_soundB (h1 l hl).1, (h1 l hl).2⟩, fun v hv => ?_⟩
  obtain ⟨a, b, c, d, e, f, g⟩ := h2 v hv
  exact ⟨⟨sound_of_soundB a, c, d, e, f⟩, sound_of_soundB b, g⟩

/-- A message: version 1, service, transaction 0x77, object 0x1000.3, flags, LEN, OFFSET 5. -/
def msgBytes (service flags len : Nat) (data : List Byte) : List Byte :=
  [1, BitVec.ofNat 8 service] ++ toLE 2 0x77 ++ toLE 2 0x1000 ++ [3, BitVec.ofNat 8 flags, 0, 0] ++ toLE 2 len ++ toLE 4 5 ++ data
def mailDev (busy : Bool) : Dev :=
  { dev0 with host := { dev0.host with req := writeMem [] 0 (msgBytes 1 0 8 [1, 2]), busy := busy, done := !busy, rejected := !busy } }
/-- The last response to the source 0x1234 was to the READ request of `msgBytes`, `age` ticks of orchard time ago. -/
def cached (age : Nat) : Dev :=
  let g := { dev0.mgmt with cache := [⟨0x1234, 0x77, 1, 0x1000, 3, 5, [1, 2, 3], 1000000⟩] }
  { dev0 with mgmt := g, otime := { dev0.otime with count := BitVec.ofNat 64 (1000000 + age) } }

/-- No package has the broadcast address, and there is an address that is neither. -/
theorem mac_ne_broadcast : Config.mac ≠ broadcast := by
  unfold Config.mac broadcast
  split
  · decide
  · assumption
theorem other_mac : ∃ dst : BitVec 48, dst ≠ Config.mac ∧ dst ≠ broadcast := by
  by_cases h : Config.mac = 1
  · exact ⟨2, by rw [h]; decide, by decide⟩
  · exact ⟨1, fun e => h e.symm, by decide⟩

theorem witness_RequestsArrive :
    (∀ busy ∈ [false, true], Sound (mailDev busy) ∧ hostUp (mailDev busy) = true ∧ (mailDev busy).host.busy = busy ∧
      (mailDev busy).mgmt.queue.length < 8) ∧
    (∀ len ∈ [16, 64], fld (readMem (mailDev false).host.req 0 len) 1 1 = 1 ∧
      fld (readMem (mailDev false).host.req 0 len) 10 2 ≤ 16368) ∧
    (Sound dev0 ∧ mgmtUp dev0 = true ∧ dev0.mgmt.queue.length < 8 ∧ ∀ e ∈ dev0.mgmt.cache, e.mac ≠ (0x1234 : BitVec 48)) ∧
    (∃ dst : BitVec 48, dst ≠ Config.mac ∧ dst ≠ broadcast) ∧ (∃ dst : BitVec 48, dst = Config.mac ∧ dst ≠ broadcast) ∧
    (∀ e ∈ [(1, 0), (2, 1484)], let b := msgBytes e.1 0 e.2 (zeros e.2)
      fld b 0 1 = 1 ∧ (fld b 1 1 = 1 ∨ fld b 1 1 = 2) ∧ (fld b 7 1).testBit 0 = false ∧ fld b 10 2 ≤ 1484 ∧ 16 + fld b 10 2 ≤ b.length) ∧
    fld (2 :: msgBytes 1 0 0 []) 0 1 ≠ 1 ∧ ([0x88, 0xB6] : List Byte).take 2 ≠ etherType ∧
    ∀ age ∈ [0, 80000000], let b := msgBytes 1 0 0 []
      Sound (cached age) ∧ mgmtUp (cached age) = true ∧ ∃ e, (cached age).mgmt.cache = [e] ∧ e.mac = 0x1234 ∧ e.txn.toNat = fld b 2 2 ∧
        e.service = fld b 1 1 ∧ e.index = fld b 4 2 ∧ e.sub = fld b 6 1 ∧ e.off = fld b 12 4 ∧
        ((cached age).otime.count - e.time).toNat ≤ 80000000 := by
  have h1 : ∀ busy ∈ [false, true], soundB (mailDev busy) = true ∧ hostUp (mailDev busy) = true ∧ (mailDev busy).host.busy = busy ∧
      (mailDev busy).mgmt.queue.length < 8 := by decide +kernel
  have h2 : ∀ age ∈ [0, 80000000], soundB (cached age) = true ∧ mgmtUp (cached age) = true ∧
      ((cached age).otime.count - 1000000).toNat ≤ 80000000 := by decide +kernel
  refine ⟨fun b hb => ⟨sound_of_soundB (h1 b hb).1, (h1 b hb).2⟩, by decide +kernel, ⟨sound_of_soundB (by decide +kernel), by decide +kernel⟩,
    other_mac, ⟨_, rfl, mac_ne_broadcast⟩, by decide +kernel, by decide +kernel, by decide, fun age ha => ?_⟩
  exact ⟨sound_of_soundB (h2 age ha).1, (h2 age ha).2.1, _, rfl, rfl, by decide +kernel, by decide +kernel, by decide +kernel, by decide +kernel,
    by decide +kernel, (h2 age ha).2.2⟩

theorem witness_RequestsServed :
    (Sound dev0 ∧ Ready dev0 ∧ src0.door = .segment 0x112233445566 ∧ (objEntry 0x1000 1).isSome = true ∧ isSealed 0x1000 1 = false ∧
      timedCount 0x1000 1 = none ∧ timedCount 0x7030 1 = some 64 ∧ og dev0 0x7030 1 < 2 ^ 64 ∧ objEntry 0x1000 99 = none ∧ segOf dev0 src0.door = none ∧ dev0.mgmt.segs.length < 4 ∧ dev0.mgmt.storing = none) ∧
    (let d := { dev0 with mgmt := { dev0.mgmt with segs := [⟨src0.door, 0x5010, 1, [1]⟩], storing := some [(okey 0x1000 7, 1)] }, faults := { dev0.faults with events := [(5, 6), (7, 8)] } }
     Sound d ∧ Ready d ∧ segOf d src0.door = some ⟨src0.door, 0x5010, 1, [1]⟩ ∧ d.faults.events = [(5, 6), (7, 8)] ∧
       d.mgmt.storing = some [(okey 0x1000 7, 1)]) ∧
    ∀ v ∈ [0, 1], let d := { dev0 with obj := dev0.obj ++ [(okey 0x6040 1, v)] }
      og d 0x6040 1 = v := 
  ⟨⟨sound_of_soundB (by decide +kernel), readyOf (by decide +kernel), rfl, by decide +kernel⟩, ⟨sound_of_soundB (by decide +kernel), readyOf (by decide +kernel), by decide +kernel, rfl, rfl⟩, by decide +kernel⟩

/-! ### Instruction words, written out from the fields of R179 and the codes of R194, R195, R225 -/

theorem test_words_scalar :
    coreInstr 7 0b00000000_000_000_000_00000_00000_00000_00000000000000000000000000000000 =
      .nop 7 0 ∧
    coreInstr 7 0b00000001_000_000_000_00001_00010_00000_11111111111111111111111111111111 =
      .addi 7 ⟨0, 0, 0, 1, 2, 0, 0xFFFFFFFF⟩ ∧
    coreInstr 7 0b00001100_000_000_000_00011_00100_00101_00000000000000000000000000000000 =
      .sltu 7 ⟨0, 0, 0, 3, 4, 5, 0⟩ ∧
    coreInstr 7 0b00010001_000_000_000_00000_00110_00111_00000000000000000000000000001000 =
      .st 7 ⟨0, 0, 0, 0, 6, 7, 8⟩ ∧
    coreInstr 7 0b00011011_000_000_000_00000_01000_01001_11111111111111111111111111111110 =
      .bge 7 ⟨0, 0, 0, 0, 8, 9, 0xFFFFFFFE⟩ ∧
    coreInstr 7 0b00100001_000_000_000_01010_01011_00000_00000000000000000000000000000000 =
      .dissue 7 ⟨0, 0, 0, 10, 11, 0, 0⟩ ∧
    coreInstr 7 0b00101011_000_000_000_01100_01101_00000_00000000000000000000000000000000 =
      .commit 7 ⟨0, 0, 0, 12, 13, 0, 0⟩ ∧
    coreInstr 7 0b00110001_000_000_000_01110_01111_10000_00000000000000000000000000000000 =
      .tload 7 ⟨0, 0, 0, 14, 15, 16, 0⟩ ∧
    coreInstr 7 0b00110101_000_000_000_00000_10001_10010_00000000000000000000000000000000 =
      .cinv 7 ⟨0, 0, 0, 0, 17, 18, 0⟩ ∧
    coreInstr 7 0b00111111_000_000_000_00000_00000_00000_00000000000000000000000000000000 =
      .endInst 7 ⟨0, 0, 0, 0, 0, 0, 0⟩ := by decide

theorem test_words_tally :
    coreInstr 7 0b00100010_000_000_000_00000_00001_00000_00000000000000000000000000000101 =
      .signal 7 ⟨0, 0, 0, 0, 1, 0, 5⟩ ∧
    coreInstr 7 0b00100011_000_000_000_00000_00001_00000_00000000000000000000000000000110 =
      .wait 7 ⟨0, 0, 0, 0, 1, 0, 6⟩ ∧
    coreInstr 7 0b00100100_000_000_000_00000_00001_00000_00000000000000000000000000000111 =
      .dec 7 ⟨0, 0, 0, 0, 1, 0, 7⟩ ∧
    coreInstr 7 0b00100100_000_000_000_00100_00101_00110_00000001000000000000000000000000 =
      .tsetc 7 ⟨0, 0, 0, 4, 5, 6, 0x01000000⟩ ∧
    coreInstr 7 0b00100100_000_000_000_00100_00101_00110_00000010000000000000000000001001 =
      .tsetb 7 ⟨0, 0, 0, 4, 5, 6, 0x02000009⟩ ∧
    coreInstr 7 0b00100100_000_000_000_00100_00101_00000_00000011000000000000000000000000 =
      .tdrop 7 ⟨0, 0, 0, 4, 5, 0, 0x03000000⟩ ∧
    coreInstr 7 0b00100101_000_000_000_00000_00001_00000_00000000000000000000000000000000 =
      .arrive 7 ⟨0, 0, 0, 0, 1, 0, 0⟩ := by decide

theorem test_words_vector :
    coreInstr 7 0b01000000_000_001_000_00001_00010_00000_00000000000000000000000001000000 =
      .vld 7 ⟨0, 1, 0, 1, 2, 0, 64⟩ ∧
    coreInstr 7 0b01000011_000_000_000_11111_00010_00011_00000000000000000000000000001101 =
      .vldt 7 ⟨0, 0, 0, 31, 2, 3, 0x0D⟩ ∧
    coreInstr 7 0b01001000_100_010_001_00001_00010_00011_00000000000000000000000000000000 =
      .vadd 7 ⟨4, 2, 1, 1, 2, 3, 0⟩ ∧
    coreInstr 7 0b01001011_011_111_000_00001_00010_00011_00000000000000000000000000000100 =
      .vfma 7 ⟨3, 7, 0, 1, 2, 3, 4⟩ ∧
    coreInstr 7 0b01010000_000_101_011_00110_00010_00011_00000000000000000000000000000010 =
      .vcmp 7 ⟨0, 5, 3, 6, 2, 3, 2⟩ ∧
    coreInstr 7 0b01010010_001_000_010_00110_00010_00000_00000000000000000000000000011001 =
      .vcvt 7 ⟨1, 0, 2, 6, 2, 0, 0x19⟩ ∧
    coreInstr 7 0b01011100_000_000_000_00110_00010_00000_00000000000000000000000000000000 =
      .vsigm 7 ⟨0, 0, 0, 6, 2, 0, 0⟩ ∧
    coreInstr 7 0b01100001_000_000_000_00110_00010_00000_00000000000000000000000000000000 =
      .vrmax 7 ⟨0, 0, 0, 6, 2, 0, 0⟩ ∧
    coreInstr 7 0b01101001_100_000_000_00110_00010_00011_00000000000000000000000000100101 =
      .venc 7 ⟨4, 0, 0, 6, 2, 3, 0x25⟩ ∧
    coreInstr 7 0b01110000_000_000_000_00000_00010_00000_00000000000000000000000000000000 =
      .vadamw 7 ⟨0, 0, 0, 0, 2, 0, 0⟩ := by decide

/-- Words with no operation: OP 0x80, OP 0x0E, tally operations with an IMM[31:24] that R225 does not list. -/
theorem test_words_refused :
    [0b10000000_000_000_000_00000_00000_00000_00000000000000000000000000000000,
      0b00001110_000_000_000_00000_00000_00000_00000000000000000000000000000000,
      0b00100100_000_000_000_00000_00000_00000_00000100000000000000000000000000,
      0b00100010_000_000_000_00000_00000_00000_00000001000000000000000000000000,
      0b01110001_000_000_000_00000_00000_00000_00000000000000000000000000000000].all
      (fun w => decide (coreInstr 7 w = .nop 7 w)) = true := by decide

/-! ### Commands that are not well-formed (R17, R18, R289, R290, R313, R346, R361), each beside one at the limit that is -/

theorem test_wf_units :
    [.tloadRetire 256, .matmul 256 0, .matmul 0 65536, .bufferSwap 0 4, .batchTimeout 32 0, .batchTimeout 0 16, .dmaPiece 0 256,
      .instanceStart 256, .submit 64, .taskComplete 64 0, .taskComplete 0 65536, .channelDeliver 0 64, .kill src0 64, .loadPiece 64 [] 0,
      .loadPiece 0 [] 16, .peerRead 0 (2 ^ 52) 1, .trainSend 0 2, .hotChannelWindow [(512, 0, 1)], .hotChannelWindow [(0, 64, 1)],
      .debugPortAccess (.readOnChip 256 0 8), .debugPortAccess (.fabricBeat 4), .debugPortAccess (.firmware 2 true)].all
        (fun i => !Instr.wf i) = true := by decide
theorem test_wf_units_limit :
    [.tloadRetire 255, .matmul 255 65535, .bufferSwap 0 3, .batchTimeout 31 15, .dmaPiece 31 255, .submit 63, .taskComplete 63 65535,
      .channelDeliver 63 63, .kill src0 63, .loadPiece 63 [] 15, .peerRead 63 (2 ^ 52 - 1) 1, .trainSend 63 1, .hotChannelWindow [(511, 63, 1)],
      .debugPortAccess (.readOnChip 255 0 8), .debugPortAccess (.fabricBeat 3), .debugPortAccess (.firmware 1 true)].all
        (fun i => Instr.wf i) = true := by decide
theorem test_wf_chip :
    [.patrolScrub 4 0 0 0, .patrolScrub 0 256 0 0, .patrolScrub 3 32 0 0, .patrolScrub 0 0 32 0, .patrolScrub 0 0 0 1024,
      .scrubComplete 0 [32] 0, .holdLimitCutoff 4 0 0 0 0, .holdLimitCutoff 0 5 0 0 0, .holdLimitCutoff 0 0 512 0 0, .holdLimitCutoff 0 0 0 16 0,
      .laneWearWindow 20 0 0, .laneWearWindow 0 18 0, .fibrePowerLoss 12, .retrain src0 20, .monitorSample [] [], .throttleStep 4,
      .dieShutdown 5, .powerStateEntry 0, .powerStateEntry 5, .clusterCache src0 0 [], .clusterCache src0 33 [], .pRequest src0 5 []].all
        (fun i => !Instr.wf i) = true := by decide
theorem test_wf_links :
    [.lock 19, .detect 19 0, .flitForward 19, .flitReceive 0 [], .ident 0 (zeros 255), .align 0 [], .timeTrainReceive 0 (zeros 65) 0 false,
      .routedTrain 20 (zeros 64), .routedTrain 0 (zeros 63), .freezeMessage 19 (zeros 64), .unitLand 2 0, .gradientAccumulate 0 256].all
        (fun i => !Instr.wf i) = true ∧
    [.lock 18, .ident 18 (zeros 256), .align 18 (List.replicate 18 0), .timeTrainReceive 18 (zeros 64) 0 false, .routedTrain 19 (zeros 64),
      .freezeMessage 18 (zeros 64), .unitLand 1 255].all (fun i => Instr.wf i) = true ∧ Instr.wf (.flitReceive 18 (zeros 256)) = true := by
  decide +kernel
theorem test_wf_host :
    [.sqTail 64 0 [], .sqTail 0 0 [⟨2 ^ 26, [1]⟩], .sqTail 0 0 [⟨0, []⟩], .cancel 64 0, .recordPost 0 2, .cqBase 0 2 0 0 [],
      .bar2Read (2 ^ 36) 1 [], .bar2Write (2 ^ 36 - 1) [1, 2] [], .msixMaskClear 131 []].all (fun i => !Instr.wf i) = true ∧
    [.sqTail 63 0 [⟨2 ^ 26 - 1, [1]⟩], .cancel 63 0, .recordPost 63 1, .bar2Write (2 ^ 36 - 2) [1, 2] [], .msixMaskClear 130 []].all
      (fun i => Instr.wf i) = true ∧
    [.frameReceive (zeros 6) (zeros 6) (zeros 1503), .frameReceive (zeros 6) (zeros 6) [8], .frameReceive (zeros 5) (zeros 6) (zeros 2)].all
      (fun i => !Instr.wf i) = true ∧ [.frameReceive (zeros 6) (zeros 6) (zeros 1502), .frameReceive (zeros 6) (zeros 6) (zeros 2)].all
      (fun i => Instr.wf i) = true := by decide +kernel
/-- A word under another mnemonic, and a tally word with an IMM[31:24] of another operation. -/
theorem test_wf_words :
    [.nop 0 0x0100000000000000, .nop 256 0, .signal 0 ⟨0, 0, 0, 0, 1, 0, 0x01000000⟩, .tsetc 0 ⟨0, 0, 0, 0, 1, 0, 0x02000000⟩].all
      (fun i => !Instr.wf i) = true ∧
    [.nop 0 0, .nop 0 0x8000000000000000, .tsetc 0 ⟨0, 0, 0, 0, 1, 0, 0x01000000⟩].all (fun i => Instr.wf i) = true := by decide

/-! ### The spec's worked examples -/

/-- −0.001, 980.0 and 992.0 to F8 (after R36). -/
theorem test_f8_example : f32ToF8 .rne 0xBA83126F = (0x00, fUF ||| fNX) ∧ f32ToF8 .rne 0x44750000 = (0x7F, fNX) ∧
    f32ToF8 .rne 0x44780000 = (0x7F, fOF ||| fNX) := by decide +kernel

/-- Products at the smallest subnormal and at the largest finite value (after R58). -/
theorem test_a24_products :
    [(0x30, 0), (0x2C, 0), (0x28, 0), (0x30, 1)].map (fun (e : Byte × Nat) =>
      (((f8Val 0x01).mul (f32Val 0x1C800000)).mul ((f8Val e.1).mul (f32Val 0x20000000))).toA24 (e.2 == 1)) =
      [(0x000001, 0), (0x000001, fUF ||| fNX), (0x000000, fUF ||| fNX), (0x000000, fUF ||| fNX)] ∧
    [(0x5A800000 : W32), 0x5B000000].map (fun b => (((f8Val 0x7F).mul (f32Val 0x5B000000)).mul ((f8Val 0x7F).mul (f32Val b))).toA24 false) =
      [(0x7FE100, 0), (0x7FFFFF, fOF ||| fNX)] := by decide +kernel

/-- 1 + 2^−24 in the ring accumulate unit (after R54). -/
theorem test_ring_add : f32Add .rne 0x3F800000 0x33800000 = (0x3F800000, fNX) ∧ f32Add .rne 0x3F800000 0xBF800000 = (0, 0) := by decide +kernel

/-- The QB4 block with a sidecar, the PB4 and TB2 elements, and the block that sets ZB (after R50). -/
def qb4Example : List Byte := [0xE3, 0x97] ++ zeros 14 ++ [0x98, 0x85, 0x5A, 0x00]
theorem test_block_decode :
    [0, 1, 2, 3, 4, 5].map (fun i => valToF32 (blockElem 0 qb4Example i)) =
      [0x3F400000, 0xBF000000, 0x3FE00000, 0xBFE00000, 0, 0x41200000] ∧ blockFlags 0 qb4Example (fun _ => true) = 0 ∧
    [0, 1].map (fun i => valToF32 (blockElem 1 ([0xD4] ++ zeros 15 ++ [0xA1, 0, 0, 0]) i)) = [0x3FA00000, 0xC0200000] ∧
    [0, 1, 2, 3].map (elemCode 2 [0x4D]) = [1, 3, 0, 1] ∧ blockFlags 2 ([0x6D] ++ zeros 7 ++ [0xA0, 0, 0, 0]) (fun _ => true) = fRZ ∧
    blockFlags 0 (zeros 4 ++ [0x10] ++ zeros 15) (fun _ => true) = fZB := by decide +kernel

/-- The encoder's examples: one outlier (0.3, −0.9, 1.2, 48.0), two outliers, and no sidecar (after R76). -/
def encCols (vs : List W32) : List EncCol :=
  (List.range 32).map fun i => ⟨i, some (f32Unpack (vs.getD i 0)).dy, .rne⟩
def outlierBlock : List Byte := [0xB2, 0x06] ++ zeros 14 ++ [0x96, 0x83, 0x70, 0x00]
def outlierCols : List EncCol := encCols [0x3E99999A, 0xBF666666, 0x3F99999A, 0x42400000]
theorem test_block_encode :
    ((encodeBlock 0 3 false outlierCols).bytes, (encodeBlock 0 3 false outlierCols).flags) = (outlierBlock, fNX) ∧
    (encodeBlock 0 3 false (encCols [0x3E99999A, 0xBF666666, 0x3F99999A, 0x42400000, 0xC2200000])).bytes.take 3 = [0xB2, 0x06, 0x09] ∧
    ((encodeBlock 0 0 false outlierCols).bytes.getD 16 0, (encodeBlock 0 0 false outlierCols).bytes.take 2) = (0xAB, [0x00, 0x70]) ∧
    ((encodeBlock 0 3 false (encCols [])).bytes, (encodeBlock 0 3 false (encCols [])).flags) = (zeros 20, 0) := by decide +kernel

/-- The LFSR of column 5 at SR_SEED 0x1234, and 1.6 rounded with it (after R78). -/
theorem test_stochastic : columnRandom 0x1234 5 0 = 0x2463 ∧
    intRound (.sr 0x2463) (-32768) 32767 (f32Unpack 0x3FCCCCCD).dy = (2, fNX) := by decide +kernel

/-- The table, the code and the stream of the outlier block (after R120). -/
def table5 : List Byte := [0x32, 0x43, 0x65, 0x77, 0x70, 0x67, 0x45, 0x33] ++ zeros 8
def stream5 : List Byte := [0x96, 0x87, 0xDF, 0x0F, 0, 0, 0, 0, 0, 0, 0, 0xDC, 0x28, 0]
theorem test_code_table : tableValid table5 = true ∧ (parseTable table5).len = [2, 3, 3, 4, 5, 6, 7, 7, 0, 7, 7, 6, 5, 4, 3, 3] ∧
    crc8 outlierBlock = 0xA3 ∧ emitBlock 0 (parseTable table5) (workBlock 0 outlierBlock) = stream5 ∧
    decodeBlockCode 0 (parseTable table5) stream5 = some outlierBlock := by decide +kernel

/-- The pseudo-channels of a stride of 513 granules at salts 0 and 1 (after R252). -/
theorem test_pseudo_channels :
    let ch (salt j : Nat) : Nat := pseudoChannel (256 * 513 * j) salt
    (List.range 16).all (fun j => ch 0 j == ch 0 0) = true ∧
    (List.range 16).map (ch 1) = [0, 2, 4, 10, 8, 10, 20, 18, 16, 18, 20, 42, 40, 42, 36, 34] := by decide +kernel

/-- The windfall record of stack 3, pseudo-channel 41 (after R332). -/
theorem test_windfall_record : toLE 16 (wfRecord 0x0002 sNone false 17 0x4E22BA5C 10000000000).toNat =
      [0x02, 0x00, 0x00, 0x11, 0x5C, 0xBA, 0x22, 0x4E, 0x00, 0xE4, 0x0B, 0x54, 0x02, 0x00, 0x00, 0x00] ∧
    (toLE 16 (wfRecord 0x0002 sCtx true 17 0x4E22BA5C 10000000000).toNat).getD 2 0 = 0x81 ∧
    pathOf (oset Dev.reset 0x3010 1 5000) 5 (3 * 2 ^ 12 + 41 * 64 + 28) = 0x4E22BA5C := by decide +kernel

/-! ### Single steps -/

/-- What a command's next state satisfies. -/
def after (o : Instr) (s : State) (p : State → Bool) : Bool := match exec o s with | .next t => p t | _ => false
/-- xd of core 0 after a scalar operation on `a` and `b`. -/
def scalar (o : Nat → Fields → Instr) (a b : Word) (imm : W32) (v : Word) : Bool :=
  after (o 0 { f0 with imm := imm }) (withX [(1, a), (2, b)] []) fun t => getX (coreOf t.dev 0) 3 == v && (coreOf t.dev 0).pc == 0x1008

theorem test_scalar : scalar .addi 5 0 0xFFFFFFFB 0 = true ∧ scalar .sub 0 1 0 0xFFFFFFFFFFFFFFFF = true ∧
    scalar .mul 0x8000000000000001 2 0 2 = true ∧ scalar .shl 1 65 0 2 = true ∧ scalar .shr 0x8000000000000000 63 0 1 = true ∧
    scalar .sra 0x8000000000000000 68 0 0xF800000000000000 = true ∧ scalar .slt 0xFFFFFFFFFFFFFFFF 0 0 1 = true ∧
    scalar .sltu 0xFFFFFFFFFFFFFFFF 0 0 0 = true ∧ scalar .lih 0x1111111122222222 0 0x80000000 0x8000000022222222 = true := by decide +kernel
/-- A backward branch on a signed comparison, JAL over two words, JR, and x0 as a destination. -/
theorem test_control :
    after (.blt 0 { f0 with imm := 0xFFFFFFFE }) (withX [(1, 0xFFFFFFFFFFFFFFFF), (2, 1)] []) (fun t => (coreOf t.dev 0).pc == 0xFF0) = true ∧
    after (.bge 0 { f0 with imm := 0xFFFFFFFE }) (withX [(1, 0xFFFFFFFFFFFFFFFF), (2, 1)] []) (fun t => (coreOf t.dev 0).pc == 0x1008) = true ∧
    after (.jal 0 { f0 with imm := 2 }) (withX [] []) (fun t => (coreOf t.dev 0).pc == 0x1010 && getX (coreOf t.dev 0) 3 == 0x1008) = true ∧
    after (.jr 0 f0) (withX [(1, 0x2000)] []) (fun t => (coreOf t.dev 0).pc == 0x2000) = true ∧
    after (.addi 0 { f0 with rd := 0, imm := 9 }) (withX [] []) (fun t => getX (coreOf t.dev 0) 0 == 0) = true := by decide +kernel
/-- LDW does not extend the sign; STW keeps the upper half of a register out of memory. -/
theorem test_load_store :
    after (.ldw 0 f0) (withX [(1, 0x1000)] (writeMem [] (spKey 0 0x1000) [0, 0, 0, 0x80, 0xFF]))
      (fun t => getX (coreOf t.dev 0) 3 == 0x80000000) = true ∧
    after (.stw 0 { f0 with imm := 4 }) (withX [(1, 0x1000), (2, 0x1122334455667788)] [])
      (fun t => t.dev.mem == writeMem [] (spKey 0 0x1004) [0x88, 0x77, 0x66, 0x55]) = true := by decide +kernel

/-- Core 0 with vector registers 1 and 2. -/
def withV (a b : Lanes) : State := stateOf { dev0 with cores := [(0, { core0 [] with v := [(1, a), (2, b)] })] }
/-- VRSUM of the example after R189; VADD of i16 saturates; VMAX orders −0 below +0; a lane that p1 disables keeps its value. -/
theorem test_vector :
    after (.vrsum 0 f0) (withV (packElems 32 128 fun l => if l = 0 then 0x3F800000 else if l < 3 then 0x33800000 else 0) 0)
      (fun t => (getV (coreOf t.dev 0) 3).toNat == 0x3F800000 && (coreOf t.dev 0).flags &&& fNX == fNX) = true ∧
    after (.vadd 0 { f0 with ty := 2 }) (withV 0x7FFF 0x0001) (fun t => (getV (coreOf t.dev 0) 3).toNat == 0x7FFF && (coreOf t.dev 0).flags == fOF) =
      true ∧
    after (.vmax 0 f0) (withV 0x80000000 0) (fun t => (getV (coreOf t.dev 0) 3).toNat == 0) = true ∧
    after (.vadd 0 { f0 with ty := 3, pred := 1 }) (withV 5 6) (fun t => (getV (coreOf t.dev 0) 3).toNat == 0) = true := by decide +kernel

/-- A transposed tile of w = 8 and g = 1: the example after R145. -/
theorem test_transpose : toLE 256 (transpose 8 1 fun r => leNat (zeros 16 ++ (List.range 16).map fun j => BitVec.ofNat 8 (16 * r + j))) =
    (List.range 256).map fun i => BitVec.ofNat 8 (16 * (i % 16) + i / 16) := by decide +kernel

/-- RFLUSH on the region of the example after R150. -/
def regionExample : Region := ⟨0x1000000, 160, true, true, false, false, false, false, 4, 1, 3, 2, 0⟩
theorem test_region_flush : toLE 1 0x03 = ((regionBytes regionExample).drop 7).take 1 ∧
    after (.rflush 0 f0) (withRegion regionExample) (fun t =>
      regionBytes (regionOf t.dev 0 3) == toLE 4 0x1000000 ++ toLE 3 160 ++ [0x29] ++ toLE 2 4 ++ toLE 2 3 ++ toLE 2 3 ++ toLE 2 0 &&
        getX (coreOf t.dev 0) 3 == 1) = true := by decide +kernel

/-- The flush of the example after R350: a SUBMIT and a part of a WRITE of three entries. -/
theorem test_sq_flush :
    let q := { Sq.reset with head := 10, tail := 13, slots := writeMem (writeMem [] (64 * 10) [1, 1]) (64 * 11) [2, 3] }
    after (.sqFlush 1 1 []) (stateOf (withSq q 0 false)) (fun t => let k := sqOf t.dev 1
      k.head == 11 && k.tail == 11 && k.discarded == 1 && k.result == 2) = true := by decide +kernel

/-- The request of the example after R375 as the frame that the manager sends, and the answer. -/
def stepWrite : List Byte := [0x01, 0x02, 0x07, 0x01, 0x40, 0x60, 0x01, 0x00, 0x00, 0x00, 0x01, 0x00, 0x00, 0x00, 0x00, 0x00, 0x01] ++ zeros 29
def stepAnswer : List Byte := [0x01, 0x02, 0x07, 0x01, 0x40, 0x60, 0x01, 0x01, 0x04, 0x03, 0x00, 0x00, 0x00, 0x00, 0x00, 0x00] ++ zeros 30
theorem test_step_trigger :
    (fld stepWrite 1 1, fld stepWrite 2 2, fld stepWrite 4 2, fld stepWrite 6 1, fld stepWrite 10 2) = (2, 0x0107, 0x6040, 1, 1) ∧
    after (.objectWrite ⟨.segment 0x024442FF0001, 0x0107⟩ 0x6040 1 [1]) (stateOf { dev0 with obj := dev0.obj ++ [(okey 0x6040 2, 1)] })
      (fun t => (match t.dev.out with
        | [.frame b] => b.take 6 == [0x02, 0x44, 0x42, 0xFF, 0x00, 0x01] && b.drop 12 == [0x88, 0xB5] ++ stepAnswer
        | _ => false) && og t.dev 0x6040 1 == 0) = true := by decide +kernel

/-- The offset of the example after R327: 8 ticks behind, to be slewed. -/
theorem test_time_offset (n : Nat) : half (((1000048 : Int) - 1000000) - (1008032 - 1008000)) n = 8 := by
  unfold half
  omega

/-- ENERGY of the example after R404: 2,000 W for 1.8 s from 7,200,000,000 mJ makes one pulse. -/
theorem test_meter_pulse :
    after (.meterSample 3600000000 48000 41667 false) { State.reset with meter := { Meter.reset with running := true, energy := 7200000000 } }
      (fun t => t.meter.energy == 7203600000 && t.meter.pulseLow) = true := by decide +kernel

end Sys2Proof.Tests
end

section
/-! PROOF. Code table slots (R117 to R123, R432): what reading a local operand answers, when a record is a valid table (R118, R119), what
each operation answers, and the statement CodeTableSlots. -/

namespace Sys2Proof.Proofs

open Sys2Proof Sys2Proof.Machine

/-! ### Units of a sound state, and a core that retires its instruction -/

/-- What holds of the value of unlisted keys and of every entry holds of every value read. -/
theorem look_of_forall {α : Type} {P : α → Prop} {d : α} {t : Table α} (hd : P d) (h : ∀ e ∈ t, P e.2) (k : Nat) : P (look d t k) := by
  induction t with
  | nil => exact hd
  | cons e r ih =>
    rw [look_cons]
    split
    · exact h e List.mem_cons_self
    · split
      · exact hd
      · exact ih fun e' he => h e' (List.mem_cons_of_mem _ he)

theorem coreOf_sound {d : Dev} (h : Sound d) (c : Nat) : CoreSound (coreOf d c) :=
  look_of_forall ⟨Rising.nil, Rising.nil, Rising.nil, Rising.nil⟩ h.core c

theorem coreOf_rising_x {d : Dev} (h : Sound d) (c : Nat) : Rising (coreOf d c).x := (coreOf_sound h c).1

/-- A write of a scalar register changes the register table alone. -/
theorem setX_eq (k : Core) (r : BitVec 5) (v : Word) : ∃ x, setX k r v = { k with x := x } := by
  unfold setX
  split
  · exact ⟨k.x, rfl⟩
  · exact ⟨_, rfl⟩

@[simp] theorem setX_pc (k : Core) (r : BitVec 5) (v : Word) : (setX k r v).pc = k.pc := by
  obtain ⟨x, hx⟩ := setX_eq k r v
  rw [hx]

theorem getX_eq_of_x_eq {k k' : Core} (h : k.x = k'.x) (r : BitVec 5) : getX k r = getX k' r := by
  simp [getX, h]

@[simp] theorem ctxOf_coreSet (d : Dev) (c : Nat) (k : Core) (x : Nat) : ctxOf (coreSet d c k) x = ctxOf d x := by rfl

theorem coreOf_coreSet_self {d : Dev} (h : Rising d.cores) (c : Nat) (k : Core) : coreOf (coreSet d c k) c = k := by
  rw [coreOf_coreSet h, if_pos rfl]

theorem coreOf_coreSet_ctxUpd {d : Dev} (h : Rising d.cores) (x : Nat) (g : Ctx → Ctx) (c : Nat) (k : Core) :
    coreOf (coreSet (ctxUpd d x g) c k) c = k :=
  coreOf_coreSet_self (d := ctxUpd d x g) h c k

theorem ctxOf_ctxUpd_self {d : Dev} (h : Rising d.ctxs) (x : Nat) (g : Ctx → Ctx) : ctxOf (ctxUpd d x g) x = g (ctxOf d x) := by
  rw [ctxOf_ctxUpd h, if_pos rfl]

theorem retireX_eq_retire (d : Dev) (c : Nat) (rd : BitVec 5) (v : Word) : retireX d c rd v = retire d c (setX (coreOf d c) rd v) := by
  simp [retireX, retire, coreUpd]

/-- Retiring with a value for `rd` writes that register and the PC of its core, and nothing else. -/
theorem wroteX_retire {s : State} (h : Sound s.dev) (c : Nat) (rd : BitVec 5) (v : Word) :
    WroteX s { s with dev := retire s.dev c (setX (coreOf s.dev c) rd v) } c rd v ((coreOf s.dev c).pc + 8) := by
  obtain ⟨x, hx⟩ := setX_eq (coreOf s.dev c) rd v
  have hreg := getX_setX (coreOf_rising_x h c) rd v
  refine ⟨⟨⟨_, rfl⟩, fun c' hc' => ?_⟩, ⟨x, ?_⟩, fun r => ?_⟩
  · simp [retire, coreOf_coreSet h.cores, hc']
  · simp [retire, coreOf_coreSet h.cores, hx]
  · rw [← hreg r]
    simp [retire, coreOf_coreSet h.cores, getX]

/-- An operand that names core-local memory without error marks reads its bytes and changes nothing (R137, R151, R178). -/
theorem operandRead_local {d : Dev} {c a n k : Nat} (x : Nat) {al : Nat} (ha : a < 2 ^ 32) (hal : a % al = 0) (hb : LocalBytes d c a n k)
    (hc : Clean d k n) : operandRead d x c (BitVec.ofNat 64 a) n al = .ok (readMem d.mem k n) d := by
  have hnat : (BitVec.ofNat 64 a).toNat = a := by
    rw [BitVec.toNat_ofNat]
    omega
  have hplace : placeOf (BitVec.ofNat 64 a) = some (.loc a) := by
    rw [placeOf, hnat, if_pos ha]
  have hkey : localKey d c a n = some k := by
    unfold localKey clOf
    obtain ⟨hin, hk⟩ | ⟨hout, hlo, hhi, hk⟩ := hb
    · rw [if_pos hin, hk]
    · rw [if_neg (by omega), if_pos (And.intro hlo hhi), hk]
  simp [operandRead, hnat, hal, hplace, hkey, memBytes, eccRead_clean hc.1 hc.2]

/-! ### Table records (R118, R119) -/

theorem fld_one (b : List Byte) (i : Nat) : fld b i 1 = (b.getD i 0).toNat := by
  unfold fld
  by_cases h : i < b.length
  · rw [List.drop_eq_getElem_cons h, List.take_succ_cons, List.take_zero, List.getD_eq_getElem _ _ h]
    rfl
  · rw [List.drop_eq_nil_of_le (by omega), List.getD_eq_default _ _ (by omega)]
    rfl

theorem leNat_eq_zero_iff (l : List Byte) : leNat l = 0 ↔ ∀ x ∈ l, x = 0 := by
  induction l with
  | nil => simp [leNat]
  | cons x r ih =>
    have hx : x.toNat = 0 ↔ x = 0 := BitVec.toNat_inj (y := 0#8)
    rw [List.forall_mem_cons, ← ih, ← hx, leNat]
    omega

/-- A field is 0 exactly when each of its bytes is, where bytes beyond the record's end read 0. -/
theorem fld_eq_zero_iff (b : List Byte) (off n : Nat) : fld b off n = 0 ↔ ∀ j, off ≤ j → j < off + n → b.getD j 0 = 0 := by
  have hbyte (j : Nat) : b.getD (off + j) 0 = (b.drop off).getD j 0 := by simp
  unfold fld
  rw [leNat_eq_zero_iff]
  constructor
  · intro h j hlo hhi
    obtain ⟨i, rfl⟩ := Nat.exists_eq_add_of_le hlo
    rw [hbyte]
    by_cases hi : i < (b.drop off).length
    · rw [List.getD_eq_getElem _ _ hi]
      exact h _ (List.mem_take_iff_getElem.2 ⟨i, by omega, rfl⟩)
    · exact List.getD_eq_default _ _ (by omega)
  · intro h x hx
    obtain ⟨i, hi, rfl⟩ := List.mem_take_iff_getElem.1 hx
    rw [← List.getD_eq_getElem _ 0 (by omega), ← hbyte]
    exact h _ (by omega) (by omega)

/-- The code lengths of the first `n` symbols of a record, one in each half byte (R118). -/
def recordLengths (b : List Byte) (n : Nat) : List Nat := (List.range n).map fun y => ((b.getD (y / 2) 0).toNat / 16 ^ (y % 2)) % 16

theorem parseTable_eq (b : List Byte) :
    parseTable b = ⟨(b.getD 8 0).toNat, recordLengths b (if (b.getD 8 0).toNat = 0 then 16 else 4)⟩ := by
  simp only [parseTable, recordLengths, fld_one, Nat.shiftRight_eq_div_pow, Nat.pow_mul]

/-- The sum that tableValid forms symbol by symbol is that of the coded symbols. -/
theorem kraft_foldl (len : List Nat) (a : Nat) :
    len.foldl (fun s l => if l = 0 then s else s + 2 ^ (12 - l)) a = a + ((len.filter (fun l => l ≠ 0)).map (fun l => 2 ^ (12 - l))).sum := by
  induction len generalizing a with
  | nil => simp
  | cons l r ih =>
    rw [List.foldl_cons, ih]
    by_cases hl : l = 0
    · simp [hl]
    · simp [hl, Nat.add_assoc]

/-- What R118 and R119 ask of KIND and of the bytes that only KIND 0 uses, as the parser states it. -/
theorem recordShape_iff (b : List Byte) (len : List Nat) :
    (b.getD 8 0 = 0 ∧ len = recordLengths b 16 ∨ b.getD 8 0 = 1 ∧ len = recordLengths b 4 ∧ ∀ j, 2 ≤ j → j < 8 → b.getD j 0 = 0) ↔
      (b.getD 8 0).toNat < 2 ∧ ((b.getD 8 0).toNat = 0 ∨ fld b 2 6 = 0) ∧
        len = recordLengths b (if (b.getD 8 0).toNat = 0 then 16 else 4) := by
  rw [← fld_eq_zero_iff b 2 6, ← BitVec.toNat_inj, ← BitVec.toNat_inj (y := 1)]
  generalize (b.getD 8 0).toNat = kind
  match kind with
  | 0 => simp
  | 1 => simp [and_comm]
  | n + 2 => simp

/-- The check that TLOAD makes accepts the records of R119, and the parser reads their kind and lengths. -/
theorem recordValid_iff (b : List Byte) (len : List Nat) :
    RecordValid b len ↔ tableValid b = true ∧ parseTable b = ⟨(b.getD 8 0).toNat, len⟩ := by
  refine (and_congr_left' (recordShape_iff b len)).trans ?_
  simp only [tableValid, parseTable_eq, kraft_foldl, Nat.zero_add, Bool.and_eq_true, Bool.or_eq_true, decide_eq_true_eq, List.all_eq_true,
    CodeTable.mk.injEq, true_and]
  constructor
  · rintro ⟨⟨hkind, hzero, rfl⟩, hmax, htwo, hsum⟩
    exact ⟨⟨⟨⟨⟨hkind, hmax⟩, hzero⟩, htwo⟩, hsum⟩, rfl⟩
  · rintro ⟨⟨⟨⟨⟨hkind, hmax⟩, hzero⟩, htwo⟩, hsum⟩, rfl⟩
    exact ⟨⟨hkind, hzero, rfl⟩, hmax, htwo, hsum⟩

/-- A record that R119 accepts with no lengths fails the check. -/
theorem tableValid_eq_false {b : List Byte} (h : ∀ len, ¬ RecordValid b len) : tableValid b = false :=
  Bool.eq_false_iff.2 fun hv => h _ ((recordValid_iff b _).2 ⟨hv, parseTable_eq b⟩)

/-! ### The four operations -/

theorem exec_talloc (c : Nat) (f : Fields) (s : State) : exec (.talloc c f) s = execTalloc c f s := by rfl

theorem exec_tload (c : Nat) (f : Fields) (s : State) : exec (.tload c f) s = execTload c f s := by rfl

theorem exec_tloadRetire (c : Nat) (s : State) : exec (.tloadRetire c) s = execTloadRetire c s := by rfl

theorem exec_tfree (c : Nat) (f : Fields) (s : State) : exec (.tfree c f) s = execTfree c f s := by rfl

/-- A context whose slot `n` is reserved (R121). -/
def reserveSlot (n : Nat) (x : Ctx) : Ctx := { x with reserved := put false x.reserved n true }

/-- A context whose slot `n` holds table `tab`, or none, and is not reserved (R121, R432). -/
def fillSlot (n : Nat) (tab : Option CodeTable) (x : Ctx) : Ctx :=
  { x with tables := put none x.tables n tab, reserved := put false x.reserved n false }

/-- A core that loads `tab` into slot `n` and owes its status to `rd` (R121). -/
def beginLoad (n : Nat) (tab : CodeTable) (rd : BitVec 5) (k : Core) : Core := { k with status := .loading, tload := some (n, tab, rd) }

/-- A core behind a TLOAD that has completed with status 0 in `rd`. -/
def endLoad (rd : BitVec 5) (k : Core) : Core := { setX k rd 0 with tload := none, status := .running, pc := k.pc + 8 }

theorem getX_endLoad {k : Core} (h : Rising k.x) (rd r : BitVec 5) : getX (endLoad rd k) r = if r = rd then 0 else getX k r := by
  have hset : getX (endLoad rd k) r = getX (setX k rd 0) r := getX_eq_of_x_eq rfl r
  rw [hset, getX_setX h]
  by_cases hrd : r = rd
  · rw [if_pos hrd]
    split
    case isTrue => rfl
    case isFalse h =>
      have hr : r = 0 := not_not.1 fun hr => h ⟨hrd, hr⟩
      rw [hr, getX_zero]
  · rw [if_neg hrd, if_neg fun h => hrd h.1]

theorem slotFree_iff (x : Ctx) (n : Nat) : slotFree x n = true ↔ look none x.tables n = none ∧ look false x.reserved n = false := by
  simp [slotFree]

/-- The lowest free slot is the one that TALLOC finds. -/
theorem find_slotFree_eq_some {x : Ctx} {n : Nat} (hn : n < 64) (hfree : slotFree x n = true) (hlow : ∀ m, m < n → slotFree x m = false) :
    (List.range 64).find? (slotFree x) = some n := by
  rw [List.find?_range_eq_some]
  exact ⟨hfree, List.mem_range.2 hn, fun m hm => by simp [hlow m hm]⟩

/-- A context whose 64 slots are all used or reserved has none for TALLOC. -/
theorem find_slotFree_eq_none {x : Ctx} (h : ∀ n, n < 64 → slotFree x n = false) : (List.range 64).find? (slotFree x) = none := by
  rw [List.find?_eq_none]
  exact fun n hn => by simp [h n (List.mem_range.1 hn)]

section

variable {s : State} {c : Nat} {i : Inst} (he : Executes s c i)
include he

/-- An instruction of a core that executes has its effect. -/
theorem onCore_executes (go : Dev → Core → Inst → Dev) : onCore c s go = .next { s with dev := go s.dev (coreOf s.dev c) i } :=
  onCore_next he.exists_ he.runs he.free he.inst

theorem execTalloc_some (f : Fields) {n : Nat} (hn : (List.range 64).find? (slotFree (ctxOf s.dev i.ctx)) = some n) :
    execTalloc c f s = .next { s with
      dev := retire (ctxUpd s.dev i.ctx (reserveSlot n)) c (setX (coreOf s.dev c) f.rd (BitVec.ofNat 64 n)) } := by
  rw [execTalloc, onCore_executes he, hn]
  rfl

theorem execTalloc_none (f : Fields) (hn : (List.range 64).find? (slotFree (ctxOf s.dev i.ctx)) = none) :
    execTalloc c f s = .next { s with dev := retire s.dev c (setX (coreOf s.dev c) f.rd 0x8000000000000303) } := by
  rw [execTalloc, onCore_executes he, hn]

theorem execTfree_slot {f : Fields} (hslot : (getX (coreOf s.dev c) f.rs1).toNat < 64) :
    execTfree c f s = .next { s with
      dev := retireDev (ctxUpd s.dev i.ctx (fillSlot (getX (coreOf s.dev c) f.rs1).toNat none)) c } := by
  rw [execTfree, onCore_executes he, if_neg (Nat.not_le.2 hslot)]
  rfl

theorem execTfree_badTable {f : Fields} (hslot : 64 ≤ (getX (coreOf s.dev c) f.rs1).toNat) :
    execTfree c f s = .next { s with dev := taskFail s.dev i.ctx i.task c 0x1003 (coreOf s.dev c).pc } := by
  rw [execTfree, onCore_executes he, if_pos hslot, badTable, coreFault, he.inst]

theorem execTload_noSlot {f : Fields} (hb : bankFlagged s.dev c 8 = false) (hslot : 64 ≤ (getX (coreOf s.dev c) f.rs1).toNat) :
    execTload c f s = .next { s with dev := retire s.dev c (setX (coreOf s.dev c) f.rd 0x0201) } := by
  rw [execTload, onCoreMem, onCore_executes he, hb, if_neg Bool.false_ne_true, if_pos hslot]

/-- TLOAD of a slot whose record lies in core-local memory without error marks begins the load or answers 0x0201 (R119, R121). -/
theorem execTload_local {f : Fields} (hb : bankFlagged s.dev c 8 = false) (hslot : (getX (coreOf s.dev c) f.rs1).toNat < 64) {a k : Nat}
    (ha : a < 2 ^ 32) (hx : getX (coreOf s.dev c) f.rs2 = BitVec.ofNat 64 a) (hl : LocalBytes s.dev c a 16 k) (hc : Clean s.dev k 16) :
    execTload c f s = .next { s with
      dev := if tableValid (readMem s.dev.mem k 16) then
          coreUpd s.dev c (beginLoad (getX (coreOf s.dev c) f.rs1).toNat (parseTable (readMem s.dev.mem k 16)) f.rd)
        else retire s.dev c (setX (coreOf s.dev c) f.rd 0x0201) } := by
  have hread := operandRead_local i.ctx ha (Nat.mod_one a) hl hc
  rw [execTload, onCoreMem, onCore_executes he, hb, if_neg Bool.false_ne_true, if_neg (Nat.not_le.2 hslot), hx, hread, withAcc_ok,
    retireX_eq_retire]
  rfl

end

/-- A load that has begun puts its table in the slot, clears the reservation and writes COMPLETE to xd (R121, R432). -/
theorem execTloadRetire_loading {s : State} {c : Nat} {i : Inst} {n : Nat} {tab : CodeTable} {rd : BitVec 5} (hc : c < 256)
    (hs : (coreOf s.dev c).status = .loading) (hi : (coreOf s.dev c).inst = some i) (ht : (coreOf s.dev c).tload = some (n, tab, rd)) :
    execTloadRetire c s = .next { s with
      dev := coreSet (ctxUpd s.dev i.ctx (fillSlot n (some tab))) c (endLoad rd (coreOf s.dev c)) } := by
  rw [execTloadRetire, if_pos hc, if_pos hs, finishTload, ht, hi]
  rfl

/-! ### What each operation leaves -/

section

variable {s : State} {c : Nat} {i : Inst} (hsound : Sound s.dev) (he : Executes s c i)
include hsound he

/-- TALLOC with a free slot answers its number and reserves it (R121). -/
theorem talloc_reserves (f : Fields) {n : Nat} (hn : (List.range 64).find? (slotFree (ctxOf s.dev i.ctx)) = some n) :
    ∃ t, exec (.talloc c f) s = .next t ∧
      (∀ r, getX (coreOf t.dev c) r = if r = f.rd ∧ r ≠ 0 then BitVec.ofNat 64 n else getX (coreOf s.dev c) r) ∧
      (coreOf t.dev c).pc = (coreOf s.dev c).pc + 8 ∧ ctxOf t.dev i.ctx = reserveSlot n (ctxOf s.dev i.ctx) ∧ t.dev.mem = s.dev.mem := by
  refine ⟨_, (exec_talloc c f s).trans (execTalloc_some he f hn), fun r => ?_, ?_, ?_, rfl⟩
  · rw [retire, coreOf_coreSet_ctxUpd hsound.cores, ← getX_setX (coreOf_rising_x hsound c)]
    exact getX_eq_of_x_eq rfl r
  · rw [retire, coreOf_coreSet_ctxUpd hsound.cores, setX_pc]
  · rw [retire, ctxOf_coreSet, ctxOf_ctxUpd_self hsound.ctxs]

/-- TALLOC with no free slot answers its refusal (R121, R194). -/
theorem talloc_refuses (f : Fields) (hn : (List.range 64).find? (slotFree (ctxOf s.dev i.ctx)) = none) :
    ∃ t, exec (.talloc c f) s = .next t ∧ WroteX s t c f.rd 0x8000000000000303 ((coreOf s.dev c).pc + 8) :=
  ⟨_, (exec_talloc c f s).trans (execTalloc_none he f hn), wroteX_retire hsound c f.rd _⟩

/-- TFREE of a slot empties it and clears its reservation (R121, R432). -/
theorem tfree_empties {f : Fields} (hslot : (getX (coreOf s.dev c) f.rs1).toNat < 64) :
    ∃ t, exec (.tfree c f) s = .next t ∧ (coreOf t.dev c).pc = (coreOf s.dev c).pc + 8 ∧
      ctxOf t.dev i.ctx = fillSlot (getX (coreOf s.dev c) f.rs1).toNat none (ctxOf s.dev i.ctx) := by
  refine ⟨_, (exec_tfree c f s).trans (execTfree_slot he hslot), ?_, ?_⟩
  · rw [retireDev, coreUpd, coreOf_coreSet_ctxUpd hsound.cores]
    rfl
  · rw [retireDev, coreUpd, ctxOf_coreSet, ctxOf_ctxUpd_self hsound.ctxs]

/-- TLOAD of a slot that does not exist answers 0x0201 (R121). -/
theorem tload_noSlot {f : Fields} (hb : bankFlagged s.dev c 8 = false) (hslot : 64 ≤ (getX (coreOf s.dev c) f.rs1).toNat) :
    ∃ t, exec (.tload c f) s = .next t ∧ WroteX s t c f.rd 0x0201 ((coreOf s.dev c).pc + 8) :=
  ⟨_, (exec_tload c f s).trans (execTload_noSlot he hb hslot), wroteX_retire hsound c f.rd _⟩

/-- A TLOAD that has begun completes at TLOAD_RETIRE: its slot holds the table, and the core goes on with 0 in xd (R121, R432). -/
theorem tloadRetire_fills {t : State} {n : Nat} {tab : CodeTable} {rd : BitVec 5}
    (ht : t = { s with dev := coreUpd s.dev c (beginLoad n tab rd) }) :
    coreOf t.dev c = beginLoad n tab rd (coreOf s.dev c) ∧ ctxOf t.dev i.ctx = ctxOf s.dev i.ctx ∧
      ∃ t', exec (.tloadRetire c) t = .next t' ∧ look none (ctxOf t'.dev i.ctx).tables n = some tab ∧
        coreOf t'.dev c = endLoad rd (beginLoad n tab rd (coreOf s.dev c)) := by
  have hcore : coreOf t.dev c = beginLoad n tab rd (coreOf s.dev c) := by
    rw [ht]
    exact coreOf_coreSet_self hsound.cores c _
  have hcores : Rising t.dev.cores := by
    rw [ht]
    exact hsound.cores.put _ c _
  have hctxs : t.dev.ctxs = s.dev.ctxs := by
    rw [ht]
    rfl
  have hexec := execTloadRetire_loading (s := t) (i := i) he.exists_ (by rw [hcore]; rfl) (by rw [hcore]; exact he.inst) (by rw [hcore]; rfl)
  refine ⟨hcore, by rw [ctxOf, hctxs, ctxOf], _, (exec_tloadRetire c t).trans hexec, ?_, ?_⟩
  · rw [ctxOf_coreSet, ctxOf_ctxUpd_self (hctxs ▸ hsound.ctxs)]
    exact look_put_same _ n (Option.some_ne_none tab)
  · rw [coreOf_coreSet_ctxUpd hcores, hcore]

end

section

variable {s : State} {c : Nat} {i : Inst} (hsound : Sound s.dev) (he : Executes s c i) {f : Fields} (hb : bankFlagged s.dev c 8 = false)
  (hslot : (getX (coreOf s.dev c) f.rs1).toNat < 64) {a k : Nat} (ha : a < 2 ^ 32)
  (hx : getX (coreOf s.dev c) f.rs2 = BitVec.ofNat 64 a) (hl : LocalBytes s.dev c a 16 k) (hc : Clean s.dev k 16)
include he hb hslot ha hx hl hc

/-- TLOAD of a valid record begins the load of its table (R119, R121). -/
theorem tload_valid {len : List Nat} (hv : RecordValid (readMem s.dev.mem k 16) len) :
    exec (.tload c f) s = .next { s with
      dev := coreUpd s.dev c
        (beginLoad (getX (coreOf s.dev c) f.rs1).toNat ⟨((readMem s.dev.mem k 16).getD 8 0).toNat, len⟩ f.rd) } := by
  obtain ⟨hvalid, hparse⟩ := (recordValid_iff _ len).1 hv
  rw [exec_tload, execTload_local he hb hslot ha hx hl hc, if_pos hvalid, hparse]

include hsound

/-- TLOAD of an invalid record answers 0x0201 and changes nothing else (R119). -/
theorem tload_invalid (hv : ∀ len, ¬ RecordValid (readMem s.dev.mem k 16) len) :
    ∃ t, exec (.tload c f) s = .next t ∧ WroteX s t c f.rd 0x0201 ((coreOf s.dev c).pc + 8) := by
  have hexec := execTload_local he hb hslot ha hx hl hc
  rw [tableValid_eq_false hv, if_neg Bool.false_ne_true] at hexec
  exact ⟨_, (exec_tload c f s).trans hexec, wroteX_retire hsound c f.rd _⟩

end

/-- Settles O26: each clause is the lemma above about its operation. -/
theorem codeTableSlots : Obligations.CodeTableSlots := by
  intro s c i f hsound he
  have hused (n : Nat) (h : ¬ (look none (ctxOf s.dev i.ctx).tables n = none ∧ look false (ctxOf s.dev i.ctx).reserved n = false)) :
      slotFree (ctxOf s.dev i.ctx) n = false :=
    Bool.eq_false_iff.2 (mt (slotFree_iff _ n).1 h)
  refine ⟨fun n hn hfree hlow => ?_, fun hfull => ?_, tfree_empties hsound he, fun hslot => ?_, tload_noSlot hsound he,
    fun hb hslot a k ha hx hl hc => ⟨fun len hv => ?_, tload_invalid hsound he hb hslot ha hx hl hc⟩⟩
  · exact talloc_reserves hsound he f (find_slotFree_eq_some hn ((slotFree_iff _ n).2 hfree) fun m hm => hused m (hlow m hm))
  · exact talloc_refuses hsound he f (find_slotFree_eq_none fun m hm => hused m (hfull m hm))
  · exact (exec_tfree c f s).trans (execTfree_badTable he hslot)
  · obtain ⟨hcore, hctx, t', hexec, htable, hcore'⟩ := tloadRetire_fills hsound he rfl
    refine ⟨_, t', tload_valid he hb hslot ha hx hl hc hv, hcore, hctx, hexec, htable, ?_⟩
    rw [hcore']
    exact ⟨rfl, rfl, rfl, getX_endLoad (k := beginLoad _ _ _ (coreOf s.dev c)) (coreOf_rising_x hsound c) f.rd⟩

end Sys2Proof.Proofs
end

section
/-! PROOF. Regions (R146 to R150, R219): a region record after a write of one, the pointer moves and what COMMIT, RELEASE and RFLUSH make
of them, the 16 bytes of a record, RSET and RGET, and the statement RegionOperations. -/

namespace Sys2Proof.Proofs

open Sys2Proof Sys2Proof.Machine

/-! ### A region after a write of a region -/

@[simp] theorem coreOf_regionSet (d : Dev) (cl key : Nat) (r : Region) (c : Nat) : coreOf (regionSet d cl key r) c = coreOf d c := by rfl

@[simp] theorem regionSet_mem (d : Dev) (cl key : Nat) (r : Region) : (regionSet d cl key r).mem = d.mem := by rfl

theorem clusterOf_sound {d : Dev} (h : Sound d) (cl : Nat) : ClusterSound (clusterOf d cl) :=
  look_of_forall ⟨Rising.nil, Rising.nil, Rising.nil⟩ h.cluster cl

theorem regionOf_regionSet {d : Dev} (h : Sound d) (cl key : Nat) (r : Region) (cl' j : Nat) :
    regionOf (regionSet d cl key r) cl' j = if cl' = cl ∧ j = key then r else regionOf d cl' j := by
  rw [regionOf, regionSet, clusterOf_clusterUpd h.clusters]
  by_cases hcl : cl' = cl
  · subst hcl
    rw [if_pos rfl, look_put (clusterOf_sound h cl').1]
    simp [regionOf]
  · rw [if_neg hcl, if_neg fun hc => hcl hc.1, regionOf]

/-- Two blocks with the same clusters have the same regions. -/
theorem regionOf_congr {d d' : Dev} (h : d'.clusters = d.clusters) (cl j : Nat) : regionOf d' cl j = regionOf d cl j := by
  rw [regionOf, regionOf, clusterOf, clusterOf, h]

theorem sound_regionSet {d : Dev} (h : Sound d) (cl key : Nat) (r : Region) : Sound (regionSet d cl key r) := by
  have hold := clusterOf_sound h cl
  exact { h with
    clusters := h.clusters.put _ cl _
    cluster := fun e he => (mem_put he).elim (fun hnew => hnew ▸ ⟨hold.1.put _ key r, hold.2⟩) (h.cluster e) }

/-- A core retires its instruction after an effect that left the cores as they were. -/
theorem coreOf_retireDev {d d' : Dev} (h : Rising d.cores) (hcores : d'.cores = d.cores) (c : Nat) :
    coreOf (retireDev d' c) c = { coreOf d c with pc := (coreOf d c).pc + 8 } := by
  rw [retireDev, coreUpd, coreOf_coreSet_self (hcores ▸ h), coreOf, hcores, coreOf]

/-! ### Memory without error marks -/

theorem clean_of_noMarks {d : Dev} (hu : d.upset = []) (hp : d.poison = []) (k n : Nat) : Clean d k n := by
  simp [Clean, marksIn, hu, hp]

theorem eccRead_noMarks {d : Dev} (hu : d.upset = []) (hp : d.poison = []) (x k n : Nat) : eccRead d x k n = d :=
  eccRead_clean (clean_of_noMarks hu hp k n).1 (clean_of_noMarks hu hp k n).2 x

theorem recordRead_noMarks {d : Dev} (hu : d.upset = []) (hp : d.poison = []) (x cl key : Nat) : recordRead d x cl key = d :=
  eccRead_noMarks hu hp x _ 16

/-- A write where no granule is marked changes its bytes and nothing else (R142, R156). -/
theorem memWrite_noMarks {d : Dev} (hu : d.upset = []) (hp : d.poison = []) (x k : Nat) (bs : List Byte) :
    memWrite d x k bs = { d with mem := writeMem d.mem k bs } := by
  have hpart : (partGranules k bs.length).foldl (fun d g => eccRead d x (8 * g) 8) d = d :=
    List.foldl_fixed' (fun g => eccRead_noMarks hu hp x (8 * g) 8) _
  rw [memWrite, hpart]
  simp only [hu, hp]
  rfl

theorem localKey_eq_some {d : Dev} {c a n k : Nat} (hl : LocalBytes d c a n k) : localKey d c a n = some k := by
  unfold localKey clOf
  obtain ⟨hin, hk⟩ | ⟨hout, hlo, hhi, hk⟩ := hl
  · rw [if_pos hin, hk]
  · rw [if_neg (by omega), if_pos (And.intro hlo hhi), hk]

/-- An operand that names core-local memory without error marks writes its bytes and changes nothing else (R137, R151, R178). -/
theorem operandWrite_local {d : Dev} {c a k : Nat} {bs : List Byte} (x : Nat) (ha : a < 2 ^ 32) (hl : LocalBytes d c a bs.length k)
    (hu : d.upset = []) (hp : d.poison = []) :
    operandWrite d x c (BitVec.ofNat 64 a) bs 1 = .ok () { d with mem := writeMem d.mem k bs } := by
  have hnat : (BitVec.ofNat 64 a).toNat = a := by
    rw [BitVec.toNat_ofNat]
    omega
  have hplace : placeOf (BitVec.ofNat 64 a) = some (.loc a) := by
    rw [placeOf, hnat, if_pos ha]
  simp [operandWrite, hplace, localKey_eq_some hl, memWrite_noMarks hu hp, Nat.mod_one]

/-! ### Fields of a record in memory -/

/-- A field of bytes read from memory is the number that its own bytes spell. -/
theorem fld_readMem (m : Mem) (k : Nat) {len off n : Nat} (h : off + n ≤ len) :
    fld (readMem m k len) off n = leNat ((List.range n).map fun j => readByte m (k + off + j)) := by
  have hfield : ((readMem m k len).drop off).take n = (List.range n).map fun j => readByte m (k + off + j) := by
    refine List.ext_getElem (by simp; omega) fun j _ _ => ?_
    simp [readMem, Nat.add_assoc]
  rw [fld, hfield]

theorem readMem_writeMem_same {m : Mem} (h : Rising m) (k : Nat) (bs : List Byte) : readMem (writeMem m k bs) k bs.length = bs := by
  refine List.ext_getElem (readMem_length _ _ _) fun j _ hj => ?_
  simp [readMem, readByte_writeMem h, hj]

theorem fld_toLE (n v : Nat) : fld (toLE n v) 0 n = v % 256 ^ n := by
  rw [fld, List.drop_zero, List.take_of_length_le (toLE_length n v).le, leNat_toLE]

theorem fld_append_of_le {a b : List Byte} {off n : Nat} (h : off + n ≤ a.length) : fld (a ++ b) off n = fld a off n := by
  rw [fld, fld, List.drop_append_of_le_length (by omega), List.take_append_of_le_length (by rw [List.length_drop]; omega)]

theorem fld_append_toLE {a : List Byte} {off : Nat} (h : a.length = off) (n v : Nat) : fld (a ++ toLE n v) off n = v % 256 ^ n := by
  rw [fld, ← h, List.drop_left, ← fld_toLE n v, fld, List.drop_zero]

/-! ### The record of a region (R147) -/

theorem b2n_eq_toNat (b : Bool) : b2n b = b.toNat := by
  cases b <;> rfl

/-- The STATE byte of a region (R147). -/
def stateByte (r : Region) : Nat :=
  r.valid.toNat + 2 * r.opened.toNat + 4 * r.taken.toNat + 8 * r.discP.toNat + 16 * r.discC.toNat + 32 * r.trunc.toNat

theorem stateByte_lt (r : Region) : stateByte r < 256 := by
  have hvalid := r.valid.toNat_le
  have hopened := r.opened.toNat_le
  have htaken := r.taken.toNat_le
  have hdiscP := r.discP.toNat_le
  have hdiscC := r.discC.toNat_le
  have htrunc := r.trunc.toNat_le
  unfold stateByte
  omega

theorem regionBytes_eq (r : Region) : regionBytes r =
    toLE 4 r.base ++ toLE 3 r.item ++ toLE 1 (stateByte r) ++ toLE 2 r.cap ++ toLE 2 r.head ++ toLE 2 r.tail ++ toLE 2 r.count := by
  simp only [regionBytes, stateByte, b2n_eq_toNat]

@[simp] theorem regionBytes_length (r : Region) : (regionBytes r).length = 16 := by
  simp [regionBytes]

/-- Each field of a record's bytes is that of the region, cut to its size. -/
theorem regionBytes_fields (r : Region) : fld (regionBytes r) 0 4 = r.base % 2 ^ 32 ∧ fld (regionBytes r) 4 3 = r.item % 2 ^ 24 ∧
    fld (regionBytes r) 8 2 = r.cap % 2 ^ 16 ∧ fld (regionBytes r) 10 2 = r.head % 2 ^ 16 ∧ fld (regionBytes r) 12 2 = r.tail % 2 ^ 16 ∧
    fld (regionBytes r) 14 2 = r.count % 2 ^ 16 ∧ fld (regionBytes r) 7 1 = stateByte r := by
  simp [-List.append_assoc, regionBytes_eq, fld_append_of_le, fld_append_toLE, fld_toLE, Nat.mod_eq_of_lt (stateByte_lt r)]

/-- The region that RSET makes: VALID, empty, every other STATE bit clear (R147). -/
def freshRegion (base item cap : Nat) : Region := ⟨base, item, true, false, false, false, false, false, cap, 0, 0, 0, 0⟩

/-- The conditions of R147 on a record whose fields are `b off size`, for memory `m` that ends at `last` (log entry 29). -/
def RecordFits (b : Nat → Nat → Nat) (m last : Nat) : Prop :=
  b 4 3 % 4 = 0 ∧ 4 ≤ b 4 3 ∧ b 4 3 ≤ 1048576 ∧ 1 ≤ b 8 2 ∧ b 0 4 % 64 = 0 ∧ b 10 2 < b 8 2 ∧ b 12 2 < b 8 2 ∧ b 14 2 ≤ b 8 2 ∧
    memOf (b 0 4) = some m ∧ b 0 4 + b 8 2 * b 4 3 ≤ last

theorem regionOk_parseRegion_iff (d : Dev) {c num key : Nat} (hkey : regionKey c num = some key) (b : List Byte) :
    regionOk d c num (parseRegion b 0) = true ↔ RecordFits (fld b) (num / 256 % 4) (memEnd d c (num / 256 % 4)) := by
  simp only [regionOk, itemsIn, hkey, Option.isSome_some, Bool.true_and, Bool.and_eq_true, decide_eq_true_eq, and_assoc]
  rfl

/-- The check reads no bytes but those of the fields. -/
theorem recordFits_readMem_iff (mem : Mem) (k m last : Nat) :
    RecordFits (fld (readMem mem k 16)) m last ↔
      RecordFits (fun off n => leNat ((List.range n).map fun j => readByte mem (k + off + j))) m last := by
  simp [RecordFits, fld_readMem]

/-! ### Pointer moves (R148, R150) -/

theorem commitItem_discarded {r : Region} (h : r.discP = true) : commitItem r = .truncated { r with discP := false } := by
  rw [commitItem, if_pos h]

theorem commitItem_full {r : Region} (hd : r.discP = false) (hc : r.count = r.cap) (ho : r.opened = false) : commitItem r = .overrun := by
  rw [commitItem, hd, if_neg Bool.false_ne_true, if_pos ⟨hc, ho⟩]

theorem commitItem_room {r : Region} (hd : r.discP = false) (h : r.count ≠ r.cap ∨ r.opened = true) :
    commitItem r = .complete { r with tail := (r.tail + 1) % r.cap, count := r.count + 1, opened := false } := by
  rw [commitItem, hd, if_neg Bool.false_ne_true, if_neg fun ⟨hc, ho⟩ => h.elim (· hc) (by simp [ho])]

theorem releaseItem_discarded {r : Region} (h : r.discC = true) : releaseItem r = .truncated { r with discC := false } := by
  rw [releaseItem, if_pos h]

theorem releaseItem_empty {r : Region} (hd : r.discC = false) (ht : r.taken = false) (hc : r.count = 0) : releaseItem r = .underrun := by
  rw [releaseItem, hd, if_neg Bool.false_ne_true, if_pos ⟨ht, hc⟩]

theorem releaseItem_held {r : Region} (hd : r.discC = false) (h : r.taken = true ∨ r.count ≠ 0) :
    releaseItem r = .complete { r with head := (r.head + 1) % r.cap, count := r.count - 1, taken := false } := by
  rw [releaseItem, hd, if_neg Bool.false_ne_true, if_neg fun ⟨ht, hc⟩ => h.elim (by simp [ht]) (· hc)]

theorem flushRegion_opened {r : Region} (h : r.opened = true) : flushRegion r = .truncated
    { r with head := r.tail, count := 0, taken := false, discC := r.discC || r.taken, old := if r.taken then r.head else r.old,
             opened := false, discP := true, trunc := true } := by
  rw [flushRegion, if_pos h]

theorem flushRegion_closed {r : Region} (h : r.opened = false) : flushRegion r = .complete
    { r with head := r.tail, count := 0, taken := false, discC := r.discC || r.taken, old := if r.taken then r.head else r.old } := by
  rw [flushRegion, h, if_neg Bool.false_ne_true]

/-- A move that succeeds, with the record it leaves and the status it answers (R148, R150). -/
inductive MoveSucceeds : Moved → Region → Word → Prop
  | complete (r : Region) : MoveSucceeds (.complete r) r 0
  | truncated (r : Region) : MoveSucceeds (.truncated r) r 1

/-- A move that faults, with its fault code (R149). -/
inductive MoveFaults : Moved → Nat → Prop
  | overrun : MoveFaults .overrun 0x1022
  | underrun : MoveFaults .underrun 0x1023

/-! ### COMMIT, RELEASE and RFLUSH -/

theorem exec_commit (c : Nat) (f : Fields) (s : State) : exec (.commit c f) s = execCommit c f s := by rfl

theorem exec_release (c : Nat) (f : Fields) (s : State) : exec (.release c f) s = execRelease c f s := by rfl

theorem exec_rflush (c : Nat) (f : Fields) (s : State) : exec (.rflush c f) s = execRflush c f s := by rfl

theorem exec_rset (c : Nat) (f : Fields) (s : State) : exec (.rset c f) s = execRset c f s := by rfl

theorem exec_rget (c : Nat) (f : Fields) (s : State) : exec (.rget c f) s = execRget c f s := by rfl

/-- The region number in xs1 (R146). -/
def regionNum (s : State) (c : Nat) (f : Fields) : Nat := (getX (coreOf s.dev c) f.rs1).toNat % 2 ^ 32

/-- The state in which the run on core `c` has met a region fault (R149, R216). -/
def regionFault (s : State) (c : Nat) (i : Inst) (f : Fields) (code : Nat) : State :=
  { s with dev := taskFail s.dev i.ctx i.task c code (BitVec.ofNat 64 (regionNum s c f + c / 8 * 2 ^ 32)) }

/-- Region `key` of the cluster of core `c` became `r`, and the core went on with `status` in `rd`; no other region, register or core
changed, and no byte of memory. -/
def RegionMoved (s t : State) (c key : Nat) (rd : BitVec 5) (r : Region) (status : Word) : Prop :=
  regionOf t.dev (c / 8) key = r ∧
    (∀ j, j ≠ key → regionOf t.dev (c / 8) j = regionOf s.dev (c / 8) j) ∧
    (∀ cl j, cl ≠ c / 8 → regionOf t.dev cl j = regionOf s.dev cl j) ∧
    (∀ x, getX (coreOf t.dev c) x = if x = rd ∧ x ≠ 0 then status else getX (coreOf s.dev c) x) ∧
    (coreOf t.dev c).pc = (coreOf s.dev c).pc + 8 ∧ (∀ c', c' ≠ c → coreOf t.dev c' = coreOf s.dev c') ∧ t.dev.mem = s.dev.mem

/-- A write of a region and then of `rd` is a move of that region. -/
theorem regionMoved_of_wroteX {s t : State} (h : Sound s.dev) {c key : Nat} {rd : BitVec 5} {r : Region} {status : Word}
    (hw : WroteX { s with dev := regionSet s.dev (c / 8) key r } t c rd status ((coreOf s.dev c).pc + 8)) :
    RegionMoved s t c key rd r status := by
  obtain ⟨⟨⟨ks, ht⟩, hcores⟩, ⟨x, hcore⟩, hregs⟩ := hw
  have hregion (cl j : Nat) : regionOf t.dev cl j = if cl = c / 8 ∧ j = key then r else regionOf s.dev cl j := by
    rw [← regionOf_regionSet h, ht]
    exact regionOf_congr rfl cl j
  refine ⟨?_, fun j hj => ?_, fun cl j hcl => ?_, hregs, ?_, hcores, ?_⟩
  · rw [hregion, if_pos ⟨rfl, rfl⟩]
  · rw [hregion, if_neg fun hc => hj hc.2]
  · rw [hregion, if_neg fun hc => hcl hc.1]
  · rw [hcore]
  · rw [ht]
    rfl

/-- A region fault of an instruction is one of its run's task (R149, R216). -/
theorem coreFault_regionDetail {s : State} {c : Nat} {i : Inst} (he : Executes s c i) (f : Fields) (code : Nat) :
    { s with dev := coreFault s.dev c code (regionDetail c (regionNum s c f)) } = regionFault s c i f code := by
  rw [coreFault, he.inst, regionFault, regionDetail, clOf, regionNum, Nat.mod_mod]

/-- Instruction `o` of core `c` has the effect of the pointer operation that makes `move` on the region in xs1, on a side that a channel
may own (R219). -/
def RunsRegionOp (s : State) (c : Nat) (i : Inst) (f : Fields) (o : Instr) (side : Option Bool) (move : Region → Moved) : Prop :=
  exec o s = .next { s with dev := regionOp c f side move s.dev (coreOf s.dev c) i }

theorem runsRegionOp_commit {s : State} {c : Nat} {i : Inst} (he : Executes s c i) (f : Fields) :
    RunsRegionOp s c i f (.commit c f) (some false) commitItem := by
  rw [RunsRegionOp, exec_commit, execCommit, onCoreDrained, onCore_executes he, he.drained]
  rfl

theorem runsRegionOp_release {s : State} {c : Nat} {i : Inst} (he : Executes s c i) (f : Fields) :
    RunsRegionOp s c i f (.release c f) (some true) releaseItem := by
  rw [RunsRegionOp, exec_release, execRelease, onCoreDrained, onCore_executes he, he.drained]
  rfl

theorem runsRegionOp_rflush {s : State} {c : Nat} {i : Inst} (he : Executes s c i) (f : Fields) :
    RunsRegionOp s c i f (.rflush c f) none flushRegion := by
  rw [RunsRegionOp, exec_rflush, execRflush, onCore_executes he]

section

variable {s : State} {c : Nat} {i : Inst} {f : Fields} {o : Instr} {side : Option Bool} {move : Region → Moved}
  (ho : RunsRegionOp s c i f o side move) (hu : s.dev.upset = []) (hp : s.dev.poison = [])
include ho hu hp

/-- A region that is not named or not valid is refused with BAD_REGION (R149). -/
theorem RunsRegionOp.badRegion (he : Executes s c i) (h : regionKey c (regionNum s c f) = none ∨
      ∃ key, regionKey c (regionNum s c f) = some key ∧ (regionOf s.dev (c / 8) key).valid = false) :
    exec o s = .next (regionFault s c i f 0x1021) := by
  rw [ho, ← coreFault_regionDetail he, regionOp, ← regionNum]
  obtain hnone | ⟨key, hkey, hvalid⟩ := h
  · rw [hnone]
  · rw [hkey]
    simp [recordRead_noMarks hu hp, clOf, hvalid]

variable {key : Nat} (hkey : regionKey c (regionNum s c f) = some key) (hvalid : (regionOf s.dev (c / 8) key).valid = true)
  (hfree : side.any (channelHas s.dev i.ctx (c / 8) (regionNum s c f)) = false)
include hkey hvalid hfree

/-- On a valid region whose side no channel owns, a pointer operation answers as its move does (R148, R149, R219). -/
theorem RunsRegionOp.exec_valid : exec o s = .next { s with
    dev := match move (regionOf s.dev (c / 8) key) with
      | .complete r => retireX (regionSet s.dev (c / 8) key r) c f.rd 0
      | .truncated r => retireX (regionSet s.dev (c / 8) key r) c f.rd 1
      | .overrun => coreFault s.dev c 0x1022 (regionDetail c (regionNum s c f))
      | .underrun => coreFault s.dev c 0x1023 (regionDetail c (regionNum s c f)) } := by
  rw [ho, regionOp, ← regionNum, hkey]
  simp only [recordRead_noMarks hu hp, clOf, hvalid, Bool.not_true, Bool.false_or, Host.Outcome.next.injEq, State.mk.injEq, true_and]
  refine if_neg ?_
  cases side with
  | none => exact Bool.false_ne_true
  | some b => exact Bool.eq_false_iff.1 hfree

theorem RunsRegionOp.faults (he : Executes s c i) {code : Nat} (hm : MoveFaults (move (regionOf s.dev (c / 8) key)) code) :
    exec o s = .next (regionFault s c i f code) := by
  rw [ho.exec_valid hu hp hkey hvalid hfree, ← coreFault_regionDetail he]
  generalize move _ = m at hm
  cases hm <;> rfl

theorem RunsRegionOp.succeeds (hsound : Sound s.dev) {r : Region} {status : Word}
    (hm : MoveSucceeds (move (regionOf s.dev (c / 8) key)) r status) :
    ∃ t, exec o s = .next t ∧ RegionMoved s t c key f.rd r status := by
  have hexec : exec o s = .next { s with dev := retireX (regionSet s.dev (c / 8) key r) c f.rd status } := by
    rw [ho.exec_valid hu hp hkey hvalid hfree]
    generalize move _ = m at hm
    cases hm <;> rfl
  rw [retireX_eq_retire] at hexec
  exact ⟨_, hexec, regionMoved_of_wroteX hsound (wroteX_retire (sound_regionSet hsound (c / 8) key r) c f.rd status)⟩

end

/-- COMMIT, RELEASE and RFLUSH: each clause is the move of its case (R148 to R150). -/
theorem regionPointersHold : RegionPointersHold := by
  intro s c i f hsound he hu hp
  have hcommit := runsRegionOp_commit he f
  have hrelease := runsRegionOp_release he f
  have hrflush := runsRegionOp_rflush he f
  refine ⟨?_, fun hbad => ⟨hcommit.badRegion hu hp he hbad, hrelease.badRegion hu hp he hbad, hrflush.badRegion hu hp he hbad⟩⟩
  rintro key _ hkey rfl hvalid
  refine ⟨fun hfree => ⟨fun hd => ?_, fun hd hc hopen => ?_, fun hd h => ?_⟩, fun hfree => ⟨fun hd => ?_, fun hd ht hc => ?_, fun hd h => ?_⟩,
    fun hopen => ?_, fun hopen => ?_⟩
  · exact hcommit.succeeds hu hp hkey hvalid hfree hsound (commitItem_discarded hd ▸ .truncated _)
  · exact hcommit.faults hu hp hkey hvalid hfree he (commitItem_full hd hc hopen ▸ .overrun)
  · exact hcommit.succeeds hu hp hkey hvalid hfree hsound (commitItem_room hd h ▸ .complete _)
  · exact hrelease.succeeds hu hp hkey hvalid hfree hsound (releaseItem_discarded hd ▸ .truncated _)
  · exact hrelease.faults hu hp hkey hvalid hfree he (releaseItem_empty hd ht hc ▸ .underrun)
  · exact hrelease.succeeds hu hp hkey hvalid hfree hsound (releaseItem_held hd h ▸ .complete _)
  · exact hrflush.succeeds hu hp hkey hvalid rfl hsound (flushRegion_opened hopen ▸ .truncated _)
  · exact hrflush.succeeds hu hp hkey hvalid rfl hsound (flushRegion_closed hopen ▸ .complete _)

/-! ### RSET and RGET -/

section

variable {s : State} {c : Nat} {i : Inst} {f : Fields} {a k key : Nat} (he : Executes s c i) (hb : bankFlagged s.dev c 8 = false)
  (ha : a < 2 ^ 32) (hx : getX (coreOf s.dev c) f.rs2 = BitVec.ofNat 64 a) (hl : LocalBytes s.dev c a 16 k) (hu : s.dev.upset = [])
  (hp : s.dev.poison = []) (hkey : regionKey c (regionNum s c f) = some key)
include he hb ha hx hl hu hp hkey

theorem execRset_local : execRset c f s = .next { s with
    dev := if regionOk s.dev c (regionNum s c f) (parseRegion (readMem s.dev.mem k 16) 0) then
        retireDev (recordWrite s.dev (c / 8) key (freshRegion (fld (readMem s.dev.mem k 16) 0 4)
        (fld (readMem s.dev.mem k 16) 4 3) (fld (readMem s.dev.mem k 16) 8 2))) c
      else coreFault s.dev c 0x1021 (regionDetail c (regionNum s c f)) } := by
  have hread := operandRead_local i.ctx ha (Nat.mod_one a) hl (clean_of_noMarks hu hp k 16)
  rw [execRset, onCoreMem_next he.exists_ he.runs he.free he.inst hb, ← regionNum, hx, hread]
  simp only [withAcc_ok, hkey]
  rfl

theorem execRget_local : execRget c f s = .next { s with
    dev := retireDev { s.dev with mem := writeMem s.dev.mem k (regionBytes (regionOf s.dev (c / 8) key)) } c } := by
  have hwrite := operandWrite_local (bs := regionBytes (regionOf s.dev (c / 8) key)) i.ctx ha (by rwa [regionBytes_length]) hu hp
  rw [execRget, onCoreMem_next he.exists_ he.runs he.free he.inst hb, ← regionNum, hx]
  simp only [hkey, recordRead_noMarks hu hp, clOf, hwrite, withAcc_ok]

/-- RSET makes a record that R147 accepts the region's, VALID and empty. -/
theorem rset_accepts (hsound : Sound s.dev)
    (hfits : RecordFits (fld (readMem s.dev.mem k 16)) (regionNum s c f / 256 % 4) (memEnd s.dev c (regionNum s c f / 256 % 4))) :
    ∃ t, exec (.rset c f) s = .next t ∧ (coreOf t.dev c).pc = (coreOf s.dev c).pc + 8 ∧ t.dev.mem = s.dev.mem ∧
      ∀ j, regionOf t.dev (c / 8) j = if j = key then
        freshRegion (fld (readMem s.dev.mem k 16) 0 4) (fld (readMem s.dev.mem k 16) 4 3) (fld (readMem s.dev.mem k 16) 8 2)
        else regionOf s.dev (c / 8) j := by
  have hexec := execRset_local he hb ha hx hl hu hp hkey
  rw [if_pos ((regionOk_parseRegion_iff s.dev hkey _).2 hfits)] at hexec
  refine ⟨_, (exec_rset c f s).trans hexec, ?_, rfl, fun j => ?_⟩
  · exact congrArg Core.pc (coreOf_retireDev hsound.cores rfl c)
  · refine (regionOf_regionSet hsound (c / 8) key _ (c / 8) j).trans ?_
    simp

theorem rset_refuses
    (hfits : ¬ RecordFits (fld (readMem s.dev.mem k 16)) (regionNum s c f / 256 % 4) (memEnd s.dev c (regionNum s c f / 256 % 4))) :
    exec (.rset c f) s = .next (regionFault s c i f 0x1021) := by
  rw [exec_rset, execRset_local he hb ha hx hl hu hp hkey, if_neg fun h => hfits ((regionOk_parseRegion_iff s.dev hkey _).1 h),
    coreFault_regionDetail he]

/-- RGET lays the record out in its 16 bytes and changes no register and no other byte (R147). -/
theorem rget_writes (hsound : Sound s.dev) :
    ∃ t, exec (.rget c f) s = .next t ∧ (coreOf t.dev c).pc = (coreOf s.dev c).pc + 8 ∧
      (∀ r, getX (coreOf t.dev c) r = getX (coreOf s.dev c) r) ∧ readMem t.dev.mem k 16 = regionBytes (regionOf s.dev (c / 8) key) ∧
      ∀ x, ¬ (k ≤ x ∧ x < k + 16) → readByte t.dev.mem x = readByte s.dev.mem x := by
  have hmem : Rising s.dev.mem := ((wf_iff _).1 hsound.mem).1
  refine ⟨_, (exec_rget c f s).trans (execRget_local he hb ha hx hl hu hp hkey), ?_, fun r => ?_, ?_, fun x hx => ?_⟩
  · exact congrArg Core.pc (coreOf_retireDev hsound.cores rfl c)
  · exact getX_eq_of_x_eq (congrArg Core.x (coreOf_retireDev hsound.cores rfl c)) r
  · have hread := readMem_writeMem_same hmem k (regionBytes (regionOf s.dev (c / 8) key))
    rwa [regionBytes_length] at hread
  · refine (readByte_writeMem hmem k _ x).trans (if_neg ?_)
    rwa [regionBytes_length]

end

/-- RSET and RGET of a record in core-local memory: its fields in memory are those that RSET parses and RGET lays out (R147). -/
theorem regionRecordsHold : RegionRecordsHold := by
  intro s c i f a k key hsound he hb ha hx hl hu hp num hkey b fits
  have hfits : fits ↔ RecordFits (fld (readMem s.dev.mem k 16)) (num / 256 % 4) (memEnd s.dev c (num / 256 % 4)) :=
    (recordFits_readMem_iff s.dev.mem k _ _).symm
  refine ⟨fun h => ?_, fun h => rset_refuses he hb ha hx hl hu hp hkey (mt hfits.2 h), ?_⟩
  · obtain ⟨t, hexec, hpc, hmem, hregion⟩ := rset_accepts he hb ha hx hl hu hp hkey hsound (hfits.1 h)
    simp only [fld_readMem, Nat.reduceAdd, Nat.reduceLeDiff] at hregion
    exact ⟨t, hexec, hpc, hmem, (hregion key).trans (if_pos rfl), fun j hj => (hregion j).trans (if_neg hj)⟩
  · obtain ⟨t, hexec, hpc, hregs, hbytes, hframe⟩ := rget_writes he hb ha hx hl hu hp hkey hsound
    have hfields := regionBytes_fields (regionOf s.dev (c / 8) key)
    simp only [← hbytes, fld_readMem, Nat.reduceAdd, Nat.reduceLeDiff] at hfields
    exact ⟨t, hexec, hpc, hregs, hfields, hframe⟩

/-- Settles O25: the pointer operations and the records of regions. -/
theorem regionOperations : Obligations.RegionOperations :=
  ⟨regionPointersHold, regionRecordsHold⟩

end Sys2Proof.Proofs
end

section
/-! PROOF. Vector instructions of a core whose vector unit is flagged at its banks (R168, R181): they join the queue as they were issued,
fields that the operation ignores (R180) included, which refutes the statement InstructionFaults. -/

namespace Sys2Proof.Proofs

open Sys2Proof Sys2Proof.Machine

/-! ### A vector instruction that waits for its banks -/

theorem exec_vld (c : Nat) (f : Fields) (s : State) : exec (.vld c f) s = onVector true (.vld c f) c s (goVld c f) := by rfl

/-- A core that has issued vector instruction `o` to its empty queue (R181). -/
def queued (o : Instr) (k : Core) : Core := { k with vq := [⟨o, k.x, k.pc⟩], pc := k.pc + 8 }

/-- A vector instruction that reaches memory waits in the queue while its requester is flagged (R168, R181). -/
theorem onVector_flagged {s : State} {c : Nat} {i : Inst} (he : Executes s c i) (hb : bankFlagged s.dev c 7 = true) (o : Instr)
    (go : Dev → Core → Inst → Dev) :
    onVector true o c s go = .next { s with dev := coreSet s.dev c (queued o (coreOf s.dev c)) } := by
  rw [onVector, onCore_executes he]
  simp [hb, he.drained, queued]

/-- While the requester is flagged, the state that a VLD leaves shows every field of its word. -/
theorem exec_vld_flagged_injective {s : State} {c : Nat} {i : Inst} (hcores : Rising s.dev.cores) (he : Executes s c i)
    (hb : bankFlagged s.dev c 7 = true) {f g : Fields} (h : exec (.vld c g) s = exec (.vld c f) s) : g = f := by
  rw [exec_vld, exec_vld, onVector_flagged he hb, onVector_flagged he hb, Host.Outcome.next.injEq, State.mk.injEq] at h
  obtain ⟨-, -, hdev⟩ := h
  have hcore := congrArg (coreOf · c) hdev
  simp only [coreOf_coreSet_self hcores] at hcore
  simpa [queued] using congrArg Core.vq hcore

/-! ### The statement InstructionFaults -/

/-- The one run of task 0 of context 1. -/
def soleRun : Inst := ⟨1, 0, 0, 1, false, 0⟩

/-- Core 0 runs a task, its vector queue is empty, and its vector unit (requester 7) is flagged at its banks with no entry of the
flagged list. -/
def flaggedRun : State :=
  { State.reset with dev := { Dev.reset with
      cores := [(0, { Core.reset with status := .running, inst := some soleRun })]
      arb := ⟨[2 ^ 31 + flagKey 0 0 0 7]⟩ } }

theorem flaggedRun_executes : Executes flaggedRun 0 soleRun := ⟨by decide, rfl, rfl, rfl, rfl⟩

theorem flaggedRun_flagged : bankFlagged flaggedRun.dev 0 7 = true := by decide

/-- Refutes O13: on a core whose vector unit is flagged at its banks, a VLD with TYPE 1 and one with TYPE 0 leave different states, since
each waits in the vector queue with the TYPE of its own word. The clauses on ignored fields do not ask, as those on VENC, VADAMW and the
scalar accesses do, that the requester is not flagged. -/
theorem not_instructionFaults : ¬ Obligations.InstructionFaults := by
  unfold Obligations.InstructionFaults
  intro h
  obtain ⟨-, -, -, hvector, -⟩ := h flaggedRun 0 soleRun ⟨0, 0, 0, 0, 0, 0, 0⟩ flaggedRun_executes
  have hsame := exec_vld_flagged_injective (s := flaggedRun) (List.pairwise_singleton _ _) flaggedRun_executes flaggedRun_flagged
    (hvector 0 1 (.vld 0) List.mem_cons_self)
  exact absurd (congrArg Fields.ty hsame) (by decide)

end Sys2Proof.Proofs
end
